-- ==== Sys2Proof/Word.lean ====
section
/-!
DEFINITION. The words of the machine: 8-bit bytes, 16-bit words, and the narrow fields of an instruction word
(spec/00_scope.md R7, R10; spec/30_encoding.md R71). Every value is unsigned (R10).
-/

namespace Sys2Proof

/-- One byte: a memory cell, a general register, a timer (R7). -/
abbrev Byte := BitVec 8

/-- 16 bits: an instruction word, I, PC, a stack entry (R7). -/
abbrev Word := BitVec 16

/-- The index of a general register: a 4-bit field X or Y (R21, R71). -/
abbrev Reg := BitVec 4

/-- A 4-bit immediate N (R71). -/
abbrev Nibble := BitVec 4

/-- A 12-bit immediate address NNN (R71). -/
abbrev Addr := BitVec 12

end Sys2Proof
end

