-- ==== Sys2Proof/Config.lean ====
section
/-!
DEFINITION. The configuration of one machine (spec/00_scope.md R8) and the values the spec leaves free.
-/

namespace Sys2Proof

/-- One of the two historically divergent interpretations of shift and jump-with-offset (R2, R14). -/
inductive Variant where
  | legacy
  | modern
  deriving DecidableEq, Repr, Inhabited

/-- The configuration parameters of R8, fixed for the lifetime of one machine and carried alongside its state
(log 1). -/
structure Config where
  /-- SHIFT_VARIANT: the meaning of 8XY6 and 8XYE (R138, R140). -/
  shiftVariant : Variant
  /-- JUMP_VARIANT: the meaning of BNNN (R107). -/
  jumpVariant : Variant
  /-- FONT_BASE: where the font table starts (R60, R185). -/
  fontBase : Addr
  /-- FONT_TABLE: 16 glyphs of 5 bytes (R62). -/
  fontTable : Vector Byte 80
  deriving DecidableEq, Repr

/-- The constraint R8 puts on FONT_BASE: the font stays below the program area. -/
def Config.valid (c : Config) : Bool := decide (c.fontBase.toNat + 80 ≤ 0x200)

/-- SHIFT_VARIANT of the machine at reset: the spec gives no default (D17), so the value is free (log 2). -/
opaque Config.shiftVariantChoice : Variant

/-- JUMP_VARIANT of the machine at reset: the spec gives no default (D17), so the value is free (log 2). -/
opaque Config.jumpVariantChoice : Variant

/-- RND: the byte the random source supplies for the n-th execution of CXNN (R123, R216). A free value: a claim holds
for every byte (log 6). -/
opaque Config.rnd : Nat → Byte

end Sys2Proof
end

