-- ==== Sys2Proof/Machine/Font.lean ====
section
/-!
DEFINITION. The default font parameters and the configuration of the machine at reset (spec/00_scope.md R8;
spec/20_memory.md R60, R62).
-/

namespace Sys2Proof

/-- The font of R62, digits 0 to 7, one list per glyph, rows from top to bottom (log 3). -/
def Config.glyphsLow : List (List Byte) :=
  [[0xF0, 0x90, 0x90, 0x90, 0xF0], [0x20, 0x60, 0x20, 0x20, 0x70],
   [0xF0, 0x10, 0xF0, 0x80, 0xF0], [0xF0, 0x10, 0xF0, 0x10, 0xF0],
   [0x90, 0x90, 0xF0, 0x10, 0x10], [0xF0, 0x80, 0xF0, 0x10, 0xF0],
   [0xF0, 0x80, 0xF0, 0x90, 0xF0], [0xF0, 0x10, 0x20, 0x40, 0x40]]

/-- The font of R62, digits 8 to F. -/
def Config.glyphsHigh : List (List Byte) :=
  [[0xF0, 0x90, 0xF0, 0x90, 0xF0], [0xF0, 0x90, 0xF0, 0x10, 0xF0],
   [0xF0, 0x90, 0xF0, 0x90, 0x90], [0xE0, 0x90, 0xE0, 0x90, 0xE0],
   [0xF0, 0x80, 0x80, 0x80, 0xF0], [0xE0, 0x90, 0x90, 0x90, 0xE0],
   [0xF0, 0x80, 0xF0, 0x80, 0xF0], [0xF0, 0x80, 0xF0, 0x80, 0x80]]

/-- The default FONT_TABLE (R8, R62; PRESUMED, from general knowledge as the spec says, log 3). -/
def Config.defaultFontTable : Vector Byte 80 :=
  ⟨(Config.glyphsLow ++ Config.glyphsHigh).flatten.toArray, rfl⟩

/-- The default FONT_BASE (R8, D18, log 3). -/
def Config.defaultFontBase : Addr := 0x000

/-- The configuration of the machine at reset: the variants are free, the font parameters have the defaults of R8
(logs 2 and 3). -/
def Config.atReset : Config where
  shiftVariant := Config.shiftVariantChoice
  jumpVariant := Config.jumpVariantChoice
  fontBase := Config.defaultFontBase
  fontTable := Config.defaultFontTable

end Sys2Proof
end

