-- ==== Sys2Proof/Machine/State.lean ====
section
/-!
DEFINITION. The state of the machine (spec/10_state.md R20 to R38), the ways a step ends without a next state
(spec/60_exceptions.md R200 to R205, spec/70_reset_and_hazards.md R236), and the state after reset (R37, R230).
-/

namespace Sys2Proof.Machine

open Sys2Proof

/-- MEM: (address, byte) cells in one canonical form; an address that is not listed reads 0x00 (R50, R61, log 13). -/
abbrev Memory := List Host.Cell

/-- One row of the display, columns 0 to 63 (R33). -/
abbrev Line := Vector Bool 64

/-- DISP: 32 rows of 64 pixels; pixel (x, y) is column x of row y (R33). -/
abbrev Display := Vector Line 32

/-- What the host may do between two steps, beside reading (R213, R214, R220). -/
inductive ExternalEvent where
  /-- The timing collaborator calls timerTick() (R212). -/
  | timerTick
  /-- The input collaborator sets the level of key k (R214). -/
  | keyChange (k : BitVec 4) (pressed : Bool)
  deriving DecidableEq, Repr

/-- The state of the machine: the tuple of R20, the inputs and the configuration its steps read, and the model's own
`inputs` and `rndCount`. -/
structure State where
  /-- MEM (R50). -/
  mem : Memory
  /-- V[0..15] (R21); V[15] is VF (R22, R23). -/
  v : Vector Byte 16
  /-- I (R24). -/
  i : Word
  /-- PC (R25). -/
  pc : Word
  /-- PC has been set by a successful loadProgram (R230, R236; log 11). -/
  loaded : Bool
  /-- SP, the depth 0..16 of the call stack (R27, R28). -/
  sp : Fin 17
  /-- STACK[0..15] (R27). -/
  stack : Vector Word 16
  /-- DT (R31). -/
  dt : Byte
  /-- ST (R32). -/
  st : Byte
  /-- DISP (R33). -/
  disp : Display
  /-- KEY[0..15], the input levels the next step sees (R34, R214; log 4). -/
  keys : Vector Bool 16
  /-- The host's moves still to come, one list for each coming step, in order (R213, R214; log 5). -/
  inputs : List (List ExternalEvent)
  /-- How many RND bytes have been drawn (R123; log 6). The model's own field. -/
  rndCount : Nat
  /-- The configuration, fixed for the lifetime of the machine (R8; log 1). -/
  config : Config
  deriving DecidableEq, Repr

/-- A newly allocated machine (R37, R230): memory zero, display clear, stack empty, PC not yet set. The values the spec
leaves unspecified are named in logs 2 and 4 to 11. -/
def State.reset : State where
  mem := []
  v := Vector.replicate 16 0x00
  i := 0x0000
  pc := 0x0200
  loaded := false
  sp := 0
  stack := Vector.replicate 16 0x0000
  dt := 0x00
  st := 0x00
  disp := Vector.replicate 32 (Vector.replicate 64 false)
  keys := Vector.replicate 16 false
  inputs := []
  rndCount := 0
  config := Config.atReset

/-- Why a step ends with a failure or an Undefined outcome (R200). Each carries the reported state: what the driver sees
of the machine after the step (R201, R206, R221; log 30). -/
inductive Fault where
  /-- Failure(StackOverflow): raised by CALL at SP = 16, with PC at the target and the stack unchanged (R202). Safe: the
  spec reports it. -/
  | stackOverflow (reported : State)
  /-- Failure(StackUnderflow): raised by RET at SP = 0, nothing changed (R203). Safe: the spec reports it. -/
  | stackUnderflow (reported : State)
  /-- Failure(UnsupportedOperation): raised by the step when no instruction decodes, nothing changed (R204). Safe: the
  spec reports it. -/
  | unsupportedOperation (reported : State)
  /-- Undefined(FetchOutOfBounds(pc)): raised by the fetch at PC >= 0xFFF (R54, R205). Safe: the spec ends the run here. -/
  | fetchOutOfBounds (pc : Word) (reported : State)
  /-- Undefined(DataOutOfBounds(addr)): raised by DRW, LD B, LD [I] and LD Vx, [I] on an address above 0xFFF (R51 to R53,
  R205). Safe: the spec ends the run here. -/
  | dataOutOfBounds (addr : Nat) (reported : State)
  /-- Undefined(KeyIndexOutOfRange(k)): raised by SKP and SKNP on a key index above 15 (R172, R205). Safe: the spec ends
  the run here. -/
  | keyIndexOutOfRange (k : Byte) (reported : State)
  deriving DecidableEq, Repr

/-- The kind of an outcome of R200. -/
inductive OutcomeKind where
  /-- Ok. -/
  | success
  /-- One of the three failures the engine reports. -/
  | engineFailure
  /-- An Undefined outcome, at which the model stops. -/
  | modelOnly
  deriving DecidableEq, Repr

/-- What the model refuses. -/
inductive Refusal where
  /-- An instruction that has no meaning yet, by its mnemonic: raised by `exec`. Safe. No arm of this model uses it. -/
  | notModelled (mnemonic : String)
  /-- step() before a successful loadProgram: raised by `step` (R236, D27). Safe: the spec gives no such run. -/
  | notLoaded
  /-- A second loadProgram: raised by `loadProgram` (R236, D27). Safe: the spec gives no such run. -/
  | alreadyLoaded
  deriving DecidableEq, Repr

/-- What a step, or the execution of one instruction, answers. -/
abbrev Result := Host.Outcome State Fault Refusal

/-- The errors loadProgram can report (R233, R235). LoadError(IO) belongs to file reading, outside the core (R4, R235). -/
inductive LoadError where
  /-- The image is longer than 3584 bytes (R233). -/
  | tooLarge
  /-- A copy would run past the end of memory (R63); it cannot occur after the size check (R235). -/
  | outOfBounds
  deriving DecidableEq, Repr

/-- What loadProgram answers (R5, R233 to R236). -/
inductive LoadResult where
  | ok (s : State)
  | error (e : LoadError)
  | refused (r : Refusal)
  deriving DecidableEq, Repr

end Sys2Proof.Machine
end

