-- ==== Sys2Proof/Machine/Ops.lean ====
section
/-!
DEFINITION. The named operations over memory, registers, the call stack, the program counter and the outcomes of a step
(spec/20_memory.md R50 to R68, spec/10_state.md R21 to R30, spec/60_exceptions.md R200 to R206).
-/

namespace Sys2Proof.Machine

open Sys2Proof

/-! ### Memory (R50 to R52, R61, R63) -/

/-- MEM_SIZE (R7): addresses are 0x000 to 0xFFF. -/
def memSize : Nat := 0x1000

/-- What an address that is not listed reads as: every byte is 0x00 at allocation (R61). -/
def Memory.unlisted : Byte := 0x00

/-- The byte at an address. -/
def Memory.read (m : Memory) (a : Nat) : Byte :=
  match m with
  | [] => Memory.unlisted
  | (k, b) :: rest => if k = a then b else Memory.read rest a

/-- Store a byte at an address, keeping the canonical form: addresses rising, no entry that reads as if unlisted. -/
def Memory.write (m : Memory) (a : Nat) (b : Byte) : Memory :=
  match m with
  | [] => if b = Memory.unlisted then [] else [(a, b)]
  | (k, c) :: rest =>
    if a < k then
      if b = Memory.unlisted then (k, c) :: rest else (a, b) :: (k, c) :: rest
    else if a = k then
      if b = Memory.unlisted then rest else (a, b) :: rest
    else (k, c) :: Memory.write rest a b

/-- Store a run of bytes at rising addresses, in order (R57, R63). -/
def Memory.writeBytes (m : Memory) (a : Nat) (bytes : List Byte) : Memory :=
  match bytes with
  | [] => m
  | b :: rest => Memory.writeBytes (m.write a b) (a + 1) rest

/-- Read a run of `n` bytes at rising addresses (R57). -/
def Memory.readBytes (m : Memory) (a n : Nat) : List Byte :=
  match n with
  | 0 => []
  | k + 1 => m.read a :: Memory.readBytes m (a + 1) k

/-- The canonical form: addresses strictly rising and inside the address space, no entry that reads as if unlisted. -/
abbrev Memory.wf (m : Memory) : Prop :=
  m.Pairwise (fun p q => p.1 < q.1) ∧ ∀ p ∈ m, p.1 < memSize ∧ p.2 ≠ Memory.unlisted

/-- `Copy(dst, bytes)` (R63): none is OutOfBounds, and then nothing is copied. -/
def Memory.copy (m : Memory) (dst : Nat) (bytes : List Byte) : Option Memory :=
  if dst + bytes.length > memSize then none else some (m.writeBytes dst bytes)

/-! ### General registers (R21 to R23) -/

/-- The index of the flag register VF (R23). -/
def flagReg : Reg := 0xF

/-- `V[x]`: no register is special on access (R22). -/
def State.readV (s : State) (x : Reg) : Byte := s.v[x.toNat]'x.isLt

/-- `V[x] <- b` (R21, R22). -/
def State.writeV (s : State) (x : Reg) (b : Byte) : State := { s with v := s.v.set x.toNat b x.isLt }

/-- The result to V[x] first and the flag to VF last, so that the flag stands when x is F (R12, R131). -/
def State.writeVFlag (s : State) (x : Reg) (b flag : Byte) : State := (s.writeV x b).writeV flagReg flag

/-! ### Program counter (R25, R26) -/

/-- The default advance by one instruction word: PC + 2. -/
def State.advance (s : State) : State := { s with pc := s.pc + 2 }

/-- A conditional skip: PC + 4 when the condition holds, else PC + 2 (R26, R110). -/
def State.skipIf (s : State) (cond : Bool) : State := { s with pc := if cond then s.pc + 4 else s.pc + 2 }

/-- A control transfer: PC is the target, not checked (R108). -/
def State.jumpTo (s : State) (target : Word) : State := { s with pc := target }

/-! ### The other registers and the display, one write each -/

/-- `I <- w` (R24). -/
def State.setI (s : State) (w : Word) : State := { s with i := w }

/-- `DT <- b` (R31). -/
def State.setDt (s : State) (b : Byte) : State := { s with dt := b }

/-- `ST <- b` (R32). -/
def State.setSt (s : State) (b : Byte) : State := { s with st := b }

/-- The display after a clear or a draw (R33). -/
def State.setDisp (s : State) (d : Display) : State := { s with disp := d }

/-- One more RND byte has been drawn (R123, log 6). -/
def State.countDraw (s : State) : State := { s with rndCount := s.rndCount + 1 }

/-- SP and STACK after a push or a pop (R27). -/
def State.setStack (s : State) (sp : Fin 17) (stack : Vector Word 16) : State := { s with sp := sp, stack := stack }

/-! ### Call stack (R27 to R30) -/

/-- `Push(v)` (R29): none is overflow, with SP and STACK unchanged. -/
def State.push (s : State) (w : Word) : Option State :=
  if h : s.sp.val < 16 then
    some (s.setStack ⟨s.sp.val + 1, by omega⟩ (s.stack.set s.sp.val w h))
  else none

/-- `Pop()` (R30): none is underflow, with SP and STACK unchanged. The entry stays where it is, above SP, where no rule
reads it (R27). -/
def State.pop (s : State) : Option (Word × State) :=
  if h : 0 < s.sp.val then
    some (s.stack[s.sp.val - 1]'(by omega), s.setStack ⟨s.sp.val - 1, by omega⟩ s.stack)
  else none

/-! ### Reporting a failure or an Undefined outcome (R200 to R206)

The core has no trap entry (R206): what it does instead is report an outcome, with the state the driver then sees. -/

/-- `raise Failure(StackOverflow)`: PC is at the target, nothing else has changed (R202). -/
def State.raiseStackOverflow (s : State) (target : Word) : Result := .fault (.stackOverflow (s.jumpTo target))

/-- `raise Failure(StackUnderflow)`: nothing has changed (R203). -/
def State.raiseStackUnderflow (s : State) : Result := .fault (.stackUnderflow s)

/-- `raise Failure(UnsupportedOperation)`: nothing has changed (R204). -/
def State.raiseUnsupported (s : State) : Result := .fault (.unsupportedOperation s)

/-- `raise Undefined(FetchOutOfBounds(PC))`: nothing has changed (R54, R205). -/
def State.raiseFetchOutOfBounds (s : State) : Result := .fault (.fetchOutOfBounds s.pc s)

/-- `raise Undefined(DataOutOfBounds(addr))`: nothing has changed (R51, R52, R205). -/
def State.raiseDataOutOfBounds (s : State) (addr : Nat) : Result := .fault (.dataOutOfBounds addr s)

/-- `raise Undefined(KeyIndexOutOfRange(k))`: nothing has changed (R172, R205). -/
def State.raiseKeyIndexOutOfRange (s : State) (k : Byte) : Result := .fault (.keyIndexOutOfRange k s)

/-- The state the driver sees after a fault (R206, R221). -/
def Fault.reported : Fault → State
  | .stackOverflow s | .stackUnderflow s | .unsupportedOperation s => s
  | .fetchOutOfBounds _ s | .dataOutOfBounds _ s | .keyIndexOutOfRange _ s => s

/-- The kind of a fault: one of the three failures the engine recognises, or a model-only Undefined outcome (R200). -/
def Fault.kind : Fault → OutcomeKind
  | .stackOverflow _ | .stackUnderflow _ | .unsupportedOperation _ => .engineFailure
  | .fetchOutOfBounds _ _ | .dataOutOfBounds _ _ | .keyIndexOutOfRange _ _ => .modelOnly

/-- The codes of the faults in R200, the spec's own labels (D25, log 29). -/
def Fault.code : Fault → Nat
  | .stackOverflow _ => 1
  | .stackUnderflow _ => 2
  | .unsupportedOperation _ => 3
  | .fetchOutOfBounds _ _ => 0x10
  | .dataOutOfBounds _ _ => 0x11
  | .keyIndexOutOfRange _ _ => 0x12

/-- The kind of what `step()` answers: Ok is a success (R200). A refusal is no outcome of a step. -/
def outcomeKind (r : Result) : Option OutcomeKind :=
  match r with
  | .next _ => some .success
  | .fault f => some f.kind
  | .refused _ => none

/-- The code of what `step()` answers: Ok is 0 (R200, D25, log 29). A refusal is no outcome of a step. -/
def outcomeCode (r : Result) : Option Nat :=
  match r with
  | .next _ => some 0
  | .fault f => some f.code
  | .refused _ => none

end Sys2Proof.Machine
end

