-- ==== Sys2Proof/Machine/Operands.lean ====
section
/-!
DEFINITION. The operand forms (spec/30_encoding.md R73; spec/20_memory.md R53): zero-extended immediates, the
I-relative memory block with its bounds check, and the keys (spec/10_state.md R34).
-/

namespace Sys2Proof.Machine

open Sys2Proof

/-- `zext_16(NNN)` (R73). -/
def zextAddr (nnn : Addr) : Word := nnn.setWidth 16

/-- `zext_16` of a register's byte. -/
def zextByte (b : Byte) : Word := b.setWidth 16

/-- The effective address I + k: an unbounded sum, neither masked nor wrapped (R53, log 14). -/
def State.dataAddr (s : State) (k : Nat) : Nat := s.i.toNat + k

/-- A memory block of `n` bytes from I on: all its addresses are checked before any access, and the last one is reported
when it is above 0xFFF (R53, R151, R186 to R188). A block of no bytes has no address to check (R151). -/
def State.withBlock (s : State) (n : Nat) (go : Result) : Result :=
  match n with
  | 0 => go
  | k + 1 => if s.dataAddr k > 0xFFF then s.raiseDataOutOfBounds (s.dataAddr k) else go

/-- The `n` bytes from I on. -/
def State.readBlock (s : State) (n : Nat) : List Byte := s.mem.readBytes (s.dataAddr 0) n

/-- Store bytes from I on. -/
def State.writeBlock (s : State) (bytes : List Byte) : State :=
  { s with mem := s.mem.writeBytes (s.dataAddr 0) bytes }

/-- The registers V[0] to V[x], in order (R187). -/
def State.regsUpTo (s : State) (x : Reg) : List Byte := s.v.toList.take (x.toNat + 1)

/-- `V[i] <- bytes[i]` for i below the number of bytes (R188). -/
def State.writeRegs (s : State) (bytes : List Byte) : State :=
  { s with v := Vector.ofFn fun i => (bytes[i.val]?).getD s.v[i] }

/-- `KEY[k]` for k in 0..15 (R34). -/
def State.keyPressed (s : State) (k : Nat) (h : k < 16) : Bool := s.keys[k]

/-- The key named by a register's value, which must be in 0..15 and is not masked (R172, log 23). -/
def State.withKey (s : State) (k : Byte) (go : Bool → Result) : Result :=
  if h : k.toNat < 16 then go (s.keyPressed k.toNat h) else s.raiseKeyIndexOutOfRange k

/-- The lowest pressed key, if any key is pressed (R184, log 24). -/
def State.lowestKey (s : State) : Option Nat := s.keys.toList.findIdx? (fun pressed => pressed)

/-- The value the two shift forms shift: V[Y] under the legacy variant, V[X] under the modern one (R138, R140). -/
def State.shiftSource (s : State) (x y : Reg) : Byte :=
  match s.config.shiftVariant with
  | .legacy => s.readV y
  | .modern => s.readV x

/-- The offset of the jump-with-offset: V[0] under the legacy variant, V[X] under the modern one (R107). -/
def State.jumpOffset (s : State) (x : Reg) : Byte :=
  match s.config.jumpVariant with
  | .legacy => s.readV 0x0
  | .modern => s.readV x

/-- Where the glyph of a digit starts: FONT_BASE + 5 * digit (R62, R185). -/
def State.glyphAddr (s : State) (digit : Nibble) : Word := BitVec.ofNat 16 (s.config.fontBase.toNat + 5 * digit.toNat)

/-- The decimal digits of a byte: hundreds, tens, ones (R186). -/
def bcdDigits (b : Byte) : List Byte :=
  [BitVec.ofNat 8 (b.toNat / 100), BitVec.ofNat 8 (b.toNat / 10 % 10), BitVec.ofNat 8 (b.toNat % 10)]

end Sys2Proof.Machine
end

