-- ==== Sys2Proof/Machine/Flags.lean ====
section
/-!
DEFINITION. The flag computations: every value VF receives as a side effect (spec/10_state.md R23). A flag is 0 or 1 and
is computed from the operand values read before the step (spec/42_alu.md R130).
-/

namespace Sys2Proof.Machine

open Sys2Proof

/-- A flag as the byte VF holds. -/
def flagByte (b : Bool) : Byte := if b then 1 else 0

/-- ADD Vx, Vy: a > 255 - b, that is a + b > 255 (R136). -/
def carryFlag (a b : Byte) : Byte := flagByte (decide (a.toNat > 255 - b.toNat))

/-- SUB and SUBN: 1 iff the minuend is strictly greater than the subtrahend (R137, R139, C3). -/
def greaterFlag (a b : Byte) : Byte := flagByte (decide (a.toNat > b.toNat))

/-- SHR: bit 0 of the value shifted (R138). -/
def shiftedOutRight (b : Byte) : Byte := b &&& 1

/-- SHL: bit 7 of the value shifted (R140). -/
def shiftedOutLeft (b : Byte) : Byte := (b >>> 7) &&& 1

/-- ADD I, Vx: 1 iff the new I is above 0xFFF (R183). -/
def indexFlag (i : Word) : Byte := flagByte (decide (i.toNat > 0xFFF))

/-- DRW: 1 iff a lit pixel was turned off (R151, R153). -/
def collisionFlag (collision : Bool) : Byte := flagByte collision

end Sys2Proof.Machine
end

