-- ==== Sys2Proof/Machine/Alu.lean ====
section
/-!
DEFINITION. The arithmetic and logic family 8XYN (spec/42_alu.md R130 to R140).
-/

namespace Sys2Proof.Machine

open Sys2Proof

/-- LD Vx, Vy (R132). -/
def execLdReg (x y : Reg) (s : State) : Result := .next (s.writeV x (s.readV y)).advance

/-- OR Vx, Vy (R133): no flag. -/
def execOrReg (x y : Reg) (s : State) : Result := .next (s.writeV x (s.readV x ||| s.readV y)).advance

/-- AND Vx, Vy (R134): no flag. -/
def execAndReg (x y : Reg) (s : State) : Result := .next (s.writeV x (s.readV x &&& s.readV y)).advance

/-- XOR Vx, Vy (R135): no flag. -/
def execXorReg (x y : Reg) (s : State) : Result := .next (s.writeV x (s.readV x ^^^ s.readV y)).advance

/-- ADD Vx, Vy (R136). -/
def execAddReg (x y : Reg) (s : State) : Result :=
  .next (s.writeVFlag x (s.readV x + s.readV y) (carryFlag (s.readV x) (s.readV y))).advance

/-- SUB Vx, Vy (R137). -/
def execSub (x y : Reg) (s : State) : Result :=
  .next (s.writeVFlag x (s.readV x - s.readV y) (greaterFlag (s.readV x) (s.readV y))).advance

/-- SHR Vx, Vy (R138). -/
def execShr (x y : Reg) (s : State) : Result :=
  .next (s.writeVFlag x (s.shiftSource x y >>> 1) (shiftedOutRight (s.shiftSource x y))).advance

/-- SUBN Vx, Vy (R139). -/
def execSubn (x y : Reg) (s : State) : Result :=
  .next (s.writeVFlag x (s.readV y - s.readV x) (greaterFlag (s.readV y) (s.readV x))).advance

/-- SHL Vx, Vy (R140). -/
def execShl (x y : Reg) (s : State) : Result :=
  .next (s.writeVFlag x (s.shiftSource x y <<< 1) (shiftedOutLeft (s.shiftSource x y))).advance

end Sys2Proof.Machine
end

