-- ==== Sys2Proof/Machine/Control.lean ====
section
/-!
DEFINITION. Control transfer and conditional skips (spec/40_control_flow.md R100 to R110).
-/

namespace Sys2Proof.Machine

open Sys2Proof

/-- RET (R100): the popped value is the new PC as it is. -/
def execRet (s : State) : Result :=
  match s.pop with
  | none => s.raiseStackUnderflow
  | some (target, popped) => .next (popped.jumpTo target)

/-- JP a (R101). -/
def execJp (nnn : Addr) (s : State) : Result := .next (s.jumpTo (zextAddr nnn))

/-- CALL a (R102): push PC + 2 first, then jump, in both cases. -/
def execCall (nnn : Addr) (s : State) : Result :=
  match s.push (s.pc + 2) with
  | none => s.raiseStackOverflow (zextAddr nnn)
  | some pushed => .next (pushed.jumpTo (zextAddr nnn))

/-- SE Vx, k (R103). -/
def execSeImm (x : Reg) (nn : Byte) (s : State) : Result := .next (s.skipIf (s.readV x == nn))

/-- SNE Vx, k (R104). -/
def execSneImm (x : Reg) (nn : Byte) (s : State) : Result := .next (s.skipIf (s.readV x != nn))

/-- SE Vx, Vy (R105). -/
def execSeReg (x y : Reg) (s : State) : Result := .next (s.skipIf (s.readV x == s.readV y))

/-- SNE Vx, Vy (R106). -/
def execSneReg (x y : Reg) (s : State) : Result := .next (s.skipIf (s.readV x != s.readV y))

/-- JP V0, a (R107): NNN plus V[0] or V[X], not reduced to 12 bits. -/
def execJpV0 (x : Reg) (nnn : Addr) (s : State) : Result :=
  .next (s.jumpTo (zextAddr nnn + zextByte (s.jumpOffset x)))

end Sys2Proof.Machine
end

