-- ==== Sys2Proof/Machine/Display.lean ====
section
/-!
DEFINITION. The display buffer's own operations and the two instructions that change it (spec/43_display.md R150 to R154).
-/

namespace Sys2Proof.Machine

open Sys2Proof

/-- `DISP[x, y]`: column x, row y (R33). -/
def Display.pixel (d : Display) (x : Fin 64) (y : Fin 32) : Bool := d[y][x]

/-- `DISP[x, y] <- b`. -/
def Display.setPixel (d : Display) (x : Fin 64) (y : Fin 32) (b : Bool) : Display :=
  d.set y.val (d[y].set x.val b x.isLt) y.isLt

/-- `DispClear()` (R152): every pixel false. -/
def Display.clear : Display := Vector.replicate 32 (Vector.replicate 64 false)

/-- A column, wrapped to the width (R153). -/
def wrapColumn (n : Nat) : Fin 64 := ⟨n % 64, by omega⟩

/-- A row, wrapped to the height (R153). -/
def wrapRow (n : Nat) : Fin 32 := ⟨n % 32, by omega⟩

/-- A display being drawn on, with the collision seen so far (R153). -/
structure Canvas where
  disp : Display
  collision : Bool
  deriving DecidableEq, Repr

/-- One set bit of a sprite: a lit pixel is a collision, and the pixel is inverted (R153). -/
def Canvas.flip (c : Canvas) (x : Fin 64) (y : Fin 32) : Canvas where
  disp := c.disp.setPixel x y (!c.disp.pixel x y)
  collision := c.collision || c.disp.pixel x y

/-- Column offsets `c` down to 0 of one sprite row: offset k is bit 7 - k of the byte (R154), and a clear bit leaves its
pixel alone. The order of the updates does not matter (R153). -/
def Canvas.drawColumns (cv : Canvas) (x y : Nat) (row : Byte) (n : Nat) : Canvas :=
  match n with
  | 0 => cv
  | k + 1 =>
    let drawn := cv.drawColumns x y row k
    if row.getLsbD (7 - k) then drawn.flip (wrapColumn (x + k)) (wrapRow y) else drawn

/-- `DispDraw(x, y, rows)` (R153): row r of the sprite is drawn at row offset r (R154). -/
def Canvas.drawRows (cv : Canvas) (x y : Nat) (rows : List Byte) : Canvas :=
  match rows with
  | [] => cv
  | row :: rest => (cv.drawColumns x y row 8).drawRows x (y + 1) rest

/-- `DispDraw` on the state's display, without the flag. -/
def State.draw (s : State) (x y : Nat) (rows : List Byte) : Canvas := (Canvas.mk s.disp false).drawRows x y rows

/-- CLS (R150). -/
def execCls (s : State) : Result := .next (s.setDisp Display.clear).advance

/-- DRW Vx, Vy, n (R151): coordinates and I are those of the state before the step; VF is written last (log 20). -/
def execDrw (x y : Reg) (n : Nibble) (s : State) : Result :=
  s.withBlock n.toNat (
    let cv := s.draw ((s.readV x).toNat % 64) ((s.readV y).toNat % 32) (s.readBlock n.toNat)
    .next ((s.setDisp cv.disp).writeV flagReg (collisionFlag cv.collision)).advance)

end Sys2Proof.Machine
end

