-- ==== Sys2Proof/Machine/Immediate.lean ====
section
/-!
DEFINITION. Immediate, address-register and random instructions (spec/41_immediate.md R120 to R123).
-/

namespace Sys2Proof.Machine

open Sys2Proof

/-- LD Vx, k (R120). -/
def execLdImm (x : Reg) (nn : Byte) (s : State) : Result := .next (s.writeV x nn).advance

/-- ADD Vx, k (R121): the wrapped sum, and no flag. -/
def execAddImm (x : Reg) (nn : Byte) (s : State) : Result := .next (s.writeV x (s.readV x + nn)).advance

/-- LD I, a (R122). -/
def execLdI (nnn : Addr) (s : State) : Result := .next (s.setI (zextAddr nnn)).advance

/-- RND Vx, k (R123): a fresh free byte, masked. The draw is counted, so that the next one is another byte (log 6). -/
def execRnd (x : Reg) (nn : Byte) (s : State) : Result :=
  .next (s.countDraw.writeV x (Config.rnd s.rndCount &&& nn)).advance

end Sys2Proof.Machine
end

