-- ==== Sys2Proof/Machine/Keyboard.lean ====
section
/-!
DEFINITION. The key skip instructions of family E (spec/44_keyboard.md R170 to R172).
-/

namespace Sys2Proof.Machine

open Sys2Proof

/-- SKP Vx (R170). -/
def execSkp (x : Reg) (s : State) : Result := s.withKey (s.readV x) fun pressed => .next (s.skipIf pressed)

/-- SKNP Vx (R171). -/
def execSknp (x : Reg) (s : State) : Result := s.withKey (s.readV x) fun pressed => .next (s.skipIf !pressed)

end Sys2Proof.Machine
end

