-- ==== Sys2Proof/Machine/Timer.lean ====
section
/-!
DEFINITION. The timer and miscellaneous family FXNN (spec/45_timer_misc.md R180 to R188).
-/

namespace Sys2Proof.Machine

open Sys2Proof

/-- LD Vx, DT (R180). -/
def execLdVxDt (x : Reg) (s : State) : Result := .next (s.writeV x s.dt).advance

/-- LD DT, Vx (R181). -/
def execLdDtVx (x : Reg) (s : State) : Result := .next (s.setDt (s.readV x)).advance

/-- LD ST, Vx (R182). -/
def execLdStVx (x : Reg) (s : State) : Result := .next (s.setSt (s.readV x)).advance

/-- ADD I, Vx (R183): the sum wraps at 16 bits, and the flag tests the new I (log 21). -/
def execAddI (x : Reg) (s : State) : Result :=
  let sum := s.i + zextByte (s.readV x)
  .next ((s.setI sum).writeV flagReg (indexFlag sum)).advance

/-- LD Vx, K (R184): with no key pressed PC is rolled back by 2 and advanced by 2, so nothing changes. -/
def execLdVxK (x : Reg) (s : State) : Result :=
  match s.lowestKey with
  | some k => .next (s.writeV x (BitVec.ofNat 8 k)).advance
  | none => .next s

/-- LD F, Vx (R185): the glyph of the low nibble. -/
def execLdF (x : Reg) (s : State) : Result :=
  .next (s.setI (s.glyphAddr ((s.readV x).extractLsb' 0 4))).advance

/-- LD B, Vx (R186). -/
def execLdB (x : Reg) (s : State) : Result := s.withBlock 3 (.next (s.writeBlock (bcdDigits (s.readV x))).advance)

/-- LD [I], Vx (R187): I is unchanged (log 22). -/
def execLdMemVx (x : Reg) (s : State) : Result :=
  s.withBlock (x.toNat + 1) (.next (s.writeBlock (s.regsUpTo x)).advance)

/-- LD Vx, [I] (R188): I is unchanged (log 22). -/
def execLdVxMem (x : Reg) (s : State) : Result :=
  s.withBlock (x.toNat + 1) (.next (s.writeRegs (s.readBlock (x.toNat + 1))).advance)

end Sys2Proof.Machine
end

