-- ==== Sys2Proof/Syntax.lean ====
section
/-!
DEFINITION. The 34 instructions, one constructor per row of spec/opcode_table.json (spec/30_encoding.md R76). Register
fields are X and Y, immediates are N, NN and NNN (R71). A field an instruction ignores (R72) is not in its syntax.
-/

namespace Sys2Proof

/-- An instruction of R76. -/
inductive Instr where
  /-- 00E0 CLS: clear the display (R150). -/
  | cls
  /-- 00EE RET: return from subroutine (R100). -/
  | ret
  /-- 1aaa JP a (R101). -/
  | jp (nnn : Addr)
  /-- 2aaa CALL a (R102). -/
  | call (nnn : Addr)
  /-- 3xkk SE Vx, k (R103). -/
  | seImm (x : Reg) (nn : Byte)
  /-- 4xkk SNE Vx, k (R104). -/
  | sneImm (x : Reg) (nn : Byte)
  /-- 5xy- SE Vx, Vy (R105). -/
  | seReg (x y : Reg)
  /-- 6xkk LD Vx, k (R120). -/
  | ldImm (x : Reg) (nn : Byte)
  /-- 7xkk ADD Vx, k (R121). -/
  | addImm (x : Reg) (nn : Byte)
  /-- 8xy0 LD Vx, Vy (R132). -/
  | ldReg (x y : Reg)
  /-- 8xy1 OR Vx, Vy (R133). -/
  | orReg (x y : Reg)
  /-- 8xy2 AND Vx, Vy (R134). -/
  | andReg (x y : Reg)
  /-- 8xy3 XOR Vx, Vy (R135). -/
  | xorReg (x y : Reg)
  /-- 8xy4 ADD Vx, Vy (R136). -/
  | addReg (x y : Reg)
  /-- 8xy5 SUB Vx, Vy (R137). -/
  | sub (x y : Reg)
  /-- 8xy6 SHR Vx, Vy (R138). -/
  | shr (x y : Reg)
  /-- 8xy7 SUBN Vx, Vy (R139). -/
  | subn (x y : Reg)
  /-- 8xyE SHL Vx, Vy (R140). -/
  | shl (x y : Reg)
  /-- 9xy- SNE Vx, Vy (R106). -/
  | sneReg (x y : Reg)
  /-- Aaaa LD I, a (R122). -/
  | ldI (nnn : Addr)
  /-- Baaa JP V0, a (R107): X is the top nibble of NNN, and both fields stand in the opcode table (log 31). -/
  | jpV0 (x : Reg) (nnn : Addr)
  /-- Cxkk RND Vx, k (R123). -/
  | rnd (x : Reg) (nn : Byte)
  /-- Dxyn DRW Vx, Vy, n (R151). -/
  | drw (x y : Reg) (n : Nibble)
  /-- Ex9E SKP Vx (R170). -/
  | skp (x : Reg)
  /-- ExA1 SKNP Vx (R171). -/
  | sknp (x : Reg)
  /-- Fx07 LD Vx, DT (R180). -/
  | ldVxDt (x : Reg)
  /-- Fx15 LD DT, Vx (R181). -/
  | ldDtVx (x : Reg)
  /-- Fx18 LD ST, Vx (R182). -/
  | ldStVx (x : Reg)
  /-- Fx1E ADD I, Vx (R183). -/
  | addI (x : Reg)
  /-- Fx0A LD Vx, K (R184). -/
  | ldVxK (x : Reg)
  /-- Fx29 LD F, Vx (R185). -/
  | ldF (x : Reg)
  /-- Fx33 LD B, Vx (R186). -/
  | ldB (x : Reg)
  /-- Fx55 LD [I], Vx (R187). -/
  | ldMemVx (x : Reg)
  /-- Fx65 LD Vx, [I] (R188). -/
  | ldVxMem (x : Reg)
  deriving DecidableEq, Repr

end Sys2Proof
end

