-- ==== Sys2Proof/WellFormed.lean ====
section
/-!
DEFINITION. Which instruction terms stand for a word. Every field but one has exactly the width of its bits, so the one
check is that the X of JP V0 is the top nibble of its NNN (spec/30_encoding.md R71, R73; spec/40_control_flow.md R107).
-/

namespace Sys2Proof

/-- The register index X inside an address field: NNN[11:8] (R71). -/
def regOfAddr (nnn : Addr) : Reg := nnn.extractLsb' 8 4

/-- An instruction that some word encodes. -/
def Instr.wellFormed (i : Instr) : Bool :=
  match i with
  | .jpV0 x nnn => x == regOfAddr nnn
  | .cls | .ret | .jp _ | .call _ | .seImm _ _ | .sneImm _ _ | .seReg _ _ | .ldImm _ _ | .addImm _ _ => true
  | .ldReg _ _ | .orReg _ _ | .andReg _ _ | .xorReg _ _ | .addReg _ _ | .sub _ _ | .shr _ _ | .subn _ _ | .shl _ _ => true
  | .sneReg _ _ | .ldI _ | .rnd _ _ | .drw _ _ _ | .skp _ | .sknp _ => true
  | .ldVxDt _ | .ldDtVx _ | .ldStVx _ | .addI _ | .ldVxK _ | .ldF _ | .ldB _ | .ldMemVx _ | .ldVxMem _ => true

end Sys2Proof
end

