-- ==== Sys2Proof/Decode.lean ====
section
/-!
DEFINITION. Decoding, total on any word and any bytes, and the encoder (spec/30_encoding.md R70 to R80). Decoding selects
by family, then by sub-opcode (R75); the configuration plays no part in it (R79).
-/

namespace Sys2Proof

/-! ### Fields of an instruction word (R71) -/

/-- F = w[15:12], the operation family. -/
def fieldF (w : Word) : BitVec 4 := w.extractLsb' 12 4
/-- X = w[11:8]. -/
def fieldX (w : Word) : Reg := w.extractLsb' 8 4
/-- Y = w[7:4] (G6, log 28). -/
def fieldY (w : Word) : Reg := w.extractLsb' 4 4
/-- N = w[3:0] (G6, log 28). -/
def fieldN (w : Word) : Nibble := w.extractLsb' 0 4
/-- NN = w[7:0]. -/
def fieldNN (w : Word) : Byte := w.extractLsb' 0 8
/-- NNN = w[11:0]. -/
def fieldNNN (w : Word) : Addr := w.extractLsb' 0 12

/-- Why no instruction is read: the families with unsupported words (R77), or too few bytes for a word (R70). -/
inductive Reject where
  /-- A family-0 word other than 00E0 and 00EE. -/
  | family0 (w : Word)
  /-- A family-8 word whose N selects no form. -/
  | family8 (w : Word)
  /-- A family-E word whose NN selects no form. -/
  | familyE (w : Word)
  /-- A family-F word whose NN selects no form. -/
  | familyF (w : Word)
  /-- Fewer than two bytes. -/
  | truncated
  deriving DecidableEq, Repr

/-- Family 0 selects by the whole word (R75). -/
def decodeFamily0 (w : Word) : Except Reject Instr :=
  if w = 0x00E0 then .ok .cls
  else if w = 0x00EE then .ok .ret
  else .error (.family0 w)

/-- Family 8 selects by N (R75, C1). -/
def decodeFamily8 (w : Word) : Except Reject Instr :=
  match (fieldN w).toNat with
  | 0x0 => .ok (.ldReg (fieldX w) (fieldY w))
  | 0x1 => .ok (.orReg (fieldX w) (fieldY w))
  | 0x2 => .ok (.andReg (fieldX w) (fieldY w))
  | 0x3 => .ok (.xorReg (fieldX w) (fieldY w))
  | 0x4 => .ok (.addReg (fieldX w) (fieldY w))
  | 0x5 => .ok (.sub (fieldX w) (fieldY w))
  | 0x6 => .ok (.shr (fieldX w) (fieldY w))
  | 0x7 => .ok (.subn (fieldX w) (fieldY w))
  | 0xE => .ok (.shl (fieldX w) (fieldY w))
  | _ => .error (.family8 w)

/-- Family E selects by NN (R75). -/
def decodeFamilyE (w : Word) : Except Reject Instr :=
  if fieldNN w = 0x9E then .ok (.skp (fieldX w))
  else if fieldNN w = 0xA1 then .ok (.sknp (fieldX w))
  else .error (.familyE w)

/-- Family F selects by NN (R75, C2). -/
def decodeFamilyF (w : Word) : Except Reject Instr :=
  if fieldNN w = 0x07 then .ok (.ldVxDt (fieldX w))
  else if fieldNN w = 0x0A then .ok (.ldVxK (fieldX w))
  else if fieldNN w = 0x15 then .ok (.ldDtVx (fieldX w))
  else if fieldNN w = 0x18 then .ok (.ldStVx (fieldX w))
  else if fieldNN w = 0x1E then .ok (.addI (fieldX w))
  else if fieldNN w = 0x29 then .ok (.ldF (fieldX w))
  else if fieldNN w = 0x33 then .ok (.ldB (fieldX w))
  else if fieldNN w = 0x55 then .ok (.ldMemVx (fieldX w))
  else if fieldNN w = 0x65 then .ok (.ldVxMem (fieldX w))
  else .error (.familyF w)

/-- `Decode(w)` (R75, R76): the instruction of a word, or the name of the family that has no form for it. The last arm is
family F, the one value of the 4-bit field that is left. -/
def decodeWord (w : Word) : Except Reject Instr :=
  match (fieldF w).toNat with
  | 0x0 => decodeFamily0 w
  | 0x1 => .ok (.jp (fieldNNN w))
  | 0x2 => .ok (.call (fieldNNN w))
  | 0x3 => .ok (.seImm (fieldX w) (fieldNN w))
  | 0x4 => .ok (.sneImm (fieldX w) (fieldNN w))
  | 0x5 => .ok (.seReg (fieldX w) (fieldY w))
  | 0x6 => .ok (.ldImm (fieldX w) (fieldNN w))
  | 0x7 => .ok (.addImm (fieldX w) (fieldNN w))
  | 0x8 => decodeFamily8 w
  | 0x9 => .ok (.sneReg (fieldX w) (fieldY w))
  | 0xA => .ok (.ldI (fieldNNN w))
  | 0xB => .ok (.jpV0 (fieldX w) (fieldNNN w))
  | 0xC => .ok (.rnd (fieldX w) (fieldNN w))
  | 0xD => .ok (.drw (fieldX w) (fieldY w) (fieldN w))
  | 0xE => decodeFamilyE w
  | _ => decodeFamilyF w

/-- A word from its two bytes, the byte at the lower address first: big-endian (R54, R55). -/
def wordOfBytes (hi lo : Byte) : Word := hi ++ lo

/-- Decoding of a run of bytes: the instruction and the bytes after it (R70). -/
def decode : List Byte → Except Reject (Instr × List Byte)
  | hi :: lo :: rest =>
    match decodeWord (wordOfBytes hi lo) with
    | .ok i => .ok (i, rest)
    | .error e => .error e
  | _ => .error .truncated

/-! ### Encoding (R76) -/

/-- A word from its four fields F, X, Y, N (R71). -/
def wordFXYN (f : BitVec 4) (x y : Reg) (n : Nibble) : Word := f ++ x ++ y ++ n
/-- A word from F, X and NN (R71). -/
def wordFXNN (f : BitVec 4) (x : Reg) (nn : Byte) : Word := f ++ x ++ nn
/-- A word from F and NNN (R71). -/
def wordFNNN (f : BitVec 4) (nnn : Addr) : Word := f ++ nnn

/-- The word of a well-formed instruction (R76). The ignored N of 5XY- and 9XY- is written as 0 (log 28). -/
def encode (i : Instr) : Word :=
  match i with
  | .cls => 0x00E0
  | .ret => 0x00EE
  | .jp nnn => wordFNNN 0x1 nnn
  | .call nnn => wordFNNN 0x2 nnn
  | .seImm x nn => wordFXNN 0x3 x nn
  | .sneImm x nn => wordFXNN 0x4 x nn
  | .seReg x y => wordFXYN 0x5 x y 0x0
  | .ldImm x nn => wordFXNN 0x6 x nn
  | .addImm x nn => wordFXNN 0x7 x nn
  | .ldReg x y => wordFXYN 0x8 x y 0x0
  | .orReg x y => wordFXYN 0x8 x y 0x1
  | .andReg x y => wordFXYN 0x8 x y 0x2
  | .xorReg x y => wordFXYN 0x8 x y 0x3
  | .addReg x y => wordFXYN 0x8 x y 0x4
  | .sub x y => wordFXYN 0x8 x y 0x5
  | .shr x y => wordFXYN 0x8 x y 0x6
  | .subn x y => wordFXYN 0x8 x y 0x7
  | .shl x y => wordFXYN 0x8 x y 0xE
  | .sneReg x y => wordFXYN 0x9 x y 0x0
  | .ldI nnn => wordFNNN 0xA nnn
  | .jpV0 _ nnn => wordFNNN 0xB nnn
  | .rnd x nn => wordFXNN 0xC x nn
  | .drw x y n => wordFXYN 0xD x y n
  | .skp x => wordFXNN 0xE x 0x9E
  | .sknp x => wordFXNN 0xE x 0xA1
  | .ldVxDt x => wordFXNN 0xF x 0x07
  | .ldDtVx x => wordFXNN 0xF x 0x15
  | .ldStVx x => wordFXNN 0xF x 0x18
  | .addI x => wordFXNN 0xF x 0x1E
  | .ldVxK x => wordFXNN 0xF x 0x0A
  | .ldF x => wordFXNN 0xF x 0x29
  | .ldB x => wordFXNN 0xF x 0x33
  | .ldMemVx x => wordFXNN 0xF x 0x55
  | .ldVxMem x => wordFXNN 0xF x 0x65

/-- The two bytes of a word as memory holds them, high byte first (R55). -/
def bytesOfWord (w : Word) : List Byte := [w.extractLsb' 8 8, w.extractLsb' 0 8]

/-- A word of the opcode table: one 16-bit word, bit 0 its least significant bit. Bits above `nbits` are 0. -/
def tableWord (nbits w : Nat) : Word := BitVec.ofNat 16 (w % 2 ^ nbits)

/-- The instruction the decoder reads from an opcode-table word, laid out in bytes as memory holds it. -/
def decodeTableWord (nbits w : Nat) : Option Instr :=
  match decode (bytesOfWord (tableWord nbits w)) with
  | .ok (i, _) => some i
  | .error _ => none

end Sys2Proof
end

