-- ==== Sys2Proof/Machine/Fetch.lean ====
section
/-!
DEFINITION. Instruction fetch (spec/20_memory.md R54 to R56) and the placing of an instruction where it is fetched.
-/

namespace Sys2Proof.Machine

open Sys2Proof

/-- The word at an address: two consecutive bytes, big-endian, at any alignment (R54 to R56). -/
def State.wordAt (s : State) (a : Nat) : Word := wordOfBytes (s.mem.read a) (s.mem.read (a + 1))

/-- `Fetch()` (R54): none is FetchOutOfBounds, when PC + 1 is above 0xFFF. -/
def State.fetch (s : State) : Option Word :=
  if s.pc.toNat + 1 > 0xFFF then none else some (s.wordAt s.pc.toNat)

/-- PROG_BASE: where a program is loaded and started (R7, R60, R234). -/
def progBase : Nat := 0x200

/-- A machine whose PC is unset gets the PC that loadProgram sets; a loaded one is left alone (R234, R236; log 12). -/
def State.readyToFetch (s : State) : State :=
  if s.loaded then s else { s with loaded := true, pc := BitVec.ofNat 16 progBase }

/-- Copy the bytes of an opcode-table word to where the next fetch reads them (R55, R63). A PC outside memory, where no
instruction can stand, is left as it is. -/
def State.placeTableWord (s : State) (nbits w : Nat) : State :=
  match s.mem.copy s.pc.toNat (bytesOfWord (tableWord nbits w)) with
  | some m => { s with mem := m }
  | none => s

end Sys2Proof.Machine
end

