-- ==== Sys2Proof/Machine/Execute.lean ====
section
/-!
DEFINITION. One call of `step()` (spec/30_encoding.md R74): fetch, decode and execute, in that order
(spec/60_exceptions.md R207).
-/

namespace Sys2Proof.Machine

open Sys2Proof

/-- The decoded instruction runs; a word that selects no form is unsupported, before any execution (R75, R204). -/
def decodeExecute (s : State) (w : Word) : Result :=
  match decodeWord w with
  | .error _ => s.raiseUnsupported
  | .ok i => exec i s

/-- `step()` (R74, R207): refused while PC is unset (R236), and else fetch, decode, execute. -/
def fetchDecodeExecute (s : State) : Result :=
  if s.loaded then
    match s.fetch with
    | none => s.raiseFetchOutOfBounds
    | some w => decodeExecute s w
  else .refused .notLoaded

end Sys2Proof.Machine
end

