-- ==== Sys2Proof/Machine/Inputs.lean ====
section
/-!
DEFINITION. What the host does between steps: timer ticks and key changes (spec/60_exceptions.md R212 to R214, R220).
They land before the fetch of a step and never inside it (R213, D35).
-/

namespace Sys2Proof.Machine

open Sys2Proof

/-- One countdown: by one, down to the floor 0 (R212, log 25). -/
def countDown (t : Byte) : Byte := if t.toNat > 0 then t - 1 else t

/-- `timerTick()` (R212): both timers count down, and nothing else changes. -/
def State.timerTick (s : State) : State := { s with dt := countDown s.dt, st := countDown s.st }

/-- The input collaborator sets one key level (R214). -/
def State.setKey (s : State) (k : BitVec 4) (pressed : Bool) : State :=
  { s with keys := s.keys.set k.toNat pressed k.isLt }

/-- One move of the host. -/
def State.applyEvent (s : State) (e : ExternalEvent) : State :=
  match e with
  | .timerTick => s.timerTick
  | .keyChange k pressed => s.setKey k pressed

/-- Several moves of the host, in order. -/
def State.applyEvents (s : State) (es : List ExternalEvent) : State :=
  match es with
  | [] => s
  | e :: rest => (s.applyEvent e).applyEvents rest

/-- The moves that land before the coming step, taken off the schedule; an empty schedule holds none (log 5). -/
def State.deliver (s : State) : State :=
  match s.inputs with
  | [] => s
  | es :: rest => { s with inputs := rest }.applyEvents es

end Sys2Proof.Machine
end

