-- ==== Sys2Proof/Machine/Step.lean ====
section
/-!
DEFINITION. One step of the machine (spec/30_encoding.md R74; spec/60_exceptions.md R213), and the placing of an
instruction for the next step.
-/

namespace Sys2Proof.Machine

open Sys2Proof

/-- One step: the host's moves scheduled before it (R213, log 5), then one call of `step()` (R74). -/
def step (s : State) : Host.Outcome State Fault Refusal := fetchDecodeExecute s.deliver

/-- `s` with an opcode-table word stored where the next step fetches it, and, on a machine with no program loaded, PC set
as loadProgram sets it (log 12). -/
def State.withFetchWord (s : State) (nbits w : Nat) : State := s.readyToFetch.placeTableWord nbits w

end Sys2Proof.Machine
end

