-- ==== Sys2Proof/Machine/Boot.lean ====
section
/-!
DEFINITION. Initialisation and the program loader (spec/70_reset_and_hazards.md R230 to R236). From `State.reset` a
program comes to run by `loadFont`, then `loadProgram`, then steps (R231).
-/

namespace Sys2Proof.Machine

open Sys2Proof

/-- MAX_PROG: the longest program image (R7, R233). -/
def maxProg : Nat := 0xE00

/-- Font load (R232): `Copy(FONT_BASE, FONT_TABLE)`. Under the constraint of R8 the copy is always in bounds; a copy that
is not would be skipped (R63). -/
def State.loadFont (s : State) : State :=
  match s.mem.copy s.config.fontBase.toNat s.config.fontTable.toList with
  | some m => { s with mem := m }
  | none => s

/-- `loadProgram(bytes)` (R233 to R236): a second load is refused, an image that is too large is an error, and otherwise
the image stands at 0x200 and PC is set. Nothing else changes. -/
def State.loadProgram (s : State) (bytes : List Byte) : LoadResult :=
  if s.loaded then .refused .alreadyLoaded
  else if bytes.length > maxProg then .error .tooLarge
  else
    match s.mem.copy progBase bytes with
    | none => .error .outOfBounds
    | some m => .ok { s with mem := m, pc := BitVec.ofNat 16 progBase, loaded := true }

/-- The machine after initialisation and before loadProgram: allocated, font in memory (R231, R232). -/
def State.initialised : State := State.reset.loadFont

/-- The boot path (R231): initialisation, then loadProgram. -/
def State.boot (bytes : List Byte) : LoadResult := State.initialised.loadProgram bytes

end Sys2Proof.Machine
end

