-- ==== Sys2Proof/Safety.lean ====
section
/-!
DEFINITION. The terms claims are stated in: what a step leaves unchanged, the invariants of the machine, a safe run and
a finished one (spec/60_exceptions.md R201, R206, R221).
-/

namespace Sys2Proof.Machine

open Sys2Proof

/-! ### Frames -/

/-- The pieces of the state. -/
inductive Field where
  | mem | v | i | pc | loaded | sp | stack | dt | st | disp | keys | inputs | rndCount | config
  deriving DecidableEq, Repr

/-- The piece is the same in both states: memory byte by byte, the registers one by one. -/
def Field.same (f : Field) (s t : State) : Prop :=
  match f with
  | .mem => ∀ a, t.mem.read a = s.mem.read a
  | .v => ∀ x, t.readV x = s.readV x
  | .i => t.i = s.i
  | .pc => t.pc = s.pc
  | .loaded => t.loaded = s.loaded
  | .sp => t.sp = s.sp
  | .stack => t.stack = s.stack
  | .dt => t.dt = s.dt
  | .st => t.st = s.st
  | .disp => t.disp = s.disp
  | .keys => t.keys = s.keys
  | .inputs => t.inputs = s.inputs
  | .rndCount => t.rndCount = s.rndCount
  | .config => t.config = s.config

/-- Every piece outside the list is the same. -/
def State.sameExcept (s : State) (fs : List Field) (t : State) : Prop := ∀ f : Field, f ∉ fs → f.same s t

/-! ### Results -/

/-- A result with every state in it, reported ones too, passed through a function: to compare runs of two states. -/
def mapState (f : State → State) : Result → Result
  | .next s => .next (f s)
  | .fault (.stackOverflow s) => .fault (.stackOverflow (f s))
  | .fault (.stackUnderflow s) => .fault (.stackUnderflow (f s))
  | .fault (.unsupportedOperation s) => .fault (.unsupportedOperation (f s))
  | .fault (.fetchOutOfBounds pc s) => .fault (.fetchOutOfBounds pc (f s))
  | .fault (.dataOutOfBounds a s) => .fault (.dataOutOfBounds a (f s))
  | .fault (.keyIndexOutOfRange k s) => .fault (.keyIndexOutOfRange k (f s))
  | .refused r => .refused r

/-! ### Invariants -/

/-- Memory is in its canonical form. -/
abbrev State.memoryCanonical (s : State) : Prop := s.mem.wf

/-- PC stays in the reachable range of R35, and so does every stack entry in use. -/
abbrev State.pcInRange (s : State) : Prop :=
  s.pc.toNat ≤ 0x10FE ∧ ∀ k : Fin 16, k.val < s.sp.val → s.stack[k].toNat ≤ 0x1000

/-- The font parameters meet the constraint of R8. -/
abbrev State.configValid (s : State) : Prop := s.config.valid = true

/-! ### Runs -/

/-- A run of `n` steps meets no failure, no Undefined outcome and no refusal (R201, R205). -/
def SafeRun (n : Nat) (s : State) : Prop := ∃ t, Host.Core.run Sys2Proof.core n s = .next t

/-- A finished run stands at a jump to its own address (R221, D36). -/
def State.finished (s : State) : Bool :=
  match s.fetch with
  | none => false
  | some w =>
    match decodeWord w with
    | .ok (.jp nnn) => zextAddr nnn == s.pc
    | _ => false

end Sys2Proof.Machine
end

