-- ==== Sys2Proof/Certificates/Slice0/Obligations.lean ====
section
/-!
DEFINITION. The statements for the provers. Each docstring names the rules of spec/ it comes from and what in it is the
spec's own decision or the model's choice. OBLIGATIONS.json lists them.
-/

/-! ### Terms shared by the statements -/

namespace Sys2Proof.Claims

open Sys2Proof Sys2Proof.Machine

/-- A flag value told from a condition. -/
def bit (p : Prop) [Decidable p] : Byte := if p then 1 else 0

/-- The word decodes to the instruction, which completes: V[x] holds the byte, every other register is unchanged, PC is
the next instruction, and nothing else changes. -/
def WritesRegister (w : Word) (i : Instr) (s : State) (x : Reg) (b : Byte) : Prop :=
  decodeWord w = .ok i ∧
    ∃ t, exec i s = .next t ∧ t.readV x = b ∧ (∀ y, y ≠ x → t.readV y = s.readV y) ∧ t.pc = s.pc + 2 ∧
      s.sameExcept [.v, .pc] t

/-- The word decodes to the instruction, which completes: VF holds the flag, V[x] the byte where x is not F, every other
register is unchanged, PC is the next instruction, and nothing else changes. -/
def WritesResultAndFlag (w : Word) (i : Instr) (s : State) (x : Reg) (b flag : Byte) : Prop :=
  decodeWord w = .ok i ∧
    ∃ t, exec i s = .next t ∧ t.readV 0xF = flag ∧ (x ≠ 0xF → t.readV x = b) ∧
      (∀ y, y ≠ x → y ≠ 0xF → t.readV y = s.readV y) ∧ t.pc = s.pc + 2 ∧ s.sameExcept [.v, .pc] t

/-- The instruction completes: PC + 4 when the condition holds, PC + 2 when not, and nothing else changes. -/
def Skips (i : Instr) (s : State) (cond : Prop) : Prop :=
  ∃ t, exec i s = .next t ∧ (cond → t.pc = s.pc + 4) ∧ (¬cond → t.pc = s.pc + 2) ∧ s.sameExcept [.pc] t

/-- The value the shift forms shift (R138, R140). -/
def shifted (s : State) (x y : Reg) : Nat :=
  if s.config.shiftVariant = .legacy then (s.readV y).toNat else (s.readV x).toNat

/-- The sprite of DXYN covers a pixel: bit 7 - c of the byte at I + r, at column V[X] mod 64 + c and row
V[Y] mod 32 + r, both wrapped (R151, R153, R154). -/
def covers (s : State) (x y : Reg) (n : Nibble) (px : Fin 64) (py : Fin 32) : Prop :=
  ∃ r < n.toNat, ∃ c < 8,
    (s.mem.read (s.dataAddr r)).getLsbD (7 - c) = true ∧
    px.val = ((s.readV x).toNat % 64 + c) % 64 ∧ py.val = ((s.readV y).toNat % 32 + r) % 32

/-- The words of R77. -/
def unsupportedWord (w : Word) : Prop :=
  let f := w.toNat / 0x1000
  let nn := w.toNat % 0x100
  let n := w.toNat % 0x10
  (f = 0x0 ∧ w.toNat ≠ 0x00E0 ∧ w.toNat ≠ 0x00EE) ∨
  (f = 0x8 ∧ n ∈ [0x8, 0x9, 0xA, 0xB, 0xC, 0xD, 0xF]) ∨
  (f = 0xE ∧ nn ∉ [0x9E, 0xA1]) ∨
  (f = 0xF ∧ nn ∉ [0x07, 0x0A, 0x15, 0x18, 0x1E, 0x29, 0x33, 0x55, 0x65])

/-- What an instruction may write beside PC (R23, R24, R27, R31 to R33, R57). -/
def writes (i : Instr) : List Field :=
  match i with
  | .cls => [.disp]
  | .ret => [.sp]
  | .call _ => [.sp, .stack]
  | .jp _ | .jpV0 _ _ | .seImm _ _ | .sneImm _ _ | .seReg _ _ | .sneReg _ _ | .skp _ | .sknp _ => []
  | .ldImm _ _ | .addImm _ _ | .ldReg _ _ | .orReg _ _ | .andReg _ _ | .xorReg _ _ => [.v]
  | .addReg _ _ | .sub _ _ | .shr _ _ | .subn _ _ | .shl _ _ | .ldVxDt _ | .ldVxK _ | .ldVxMem _ => [.v]
  | .ldI _ | .ldF _ => [.i]
  | .addI _ => [.i, .v]
  | .rnd _ _ => [.v, .rndCount]
  | .drw _ _ _ => [.disp, .v]
  | .ldDtVx _ => [.dt]
  | .ldStVx _ => [.st]
  | .ldB _ | .ldMemVx _ => [.mem]

/-- The register may be written: it is the destination in X, it is VF and the instruction writes the flag as a side effect
(R23), or it is in the range of FX65. -/
def mayWriteReg (i : Instr) (r : Reg) : Bool :=
  match i with
  | .ldImm x _ | .addImm x _ | .ldReg x _ | .orReg x _ | .andReg x _ | .xorReg x _ | .rnd x _ | .ldVxDt x | .ldVxK x =>
    r == x
  | .addReg x _ | .sub x _ | .shr x _ | .subn x _ | .shl x _ => r == x || r == 0xF
  | .drw _ _ _ | .addI _ => r == 0xF
  | .ldVxMem x => decide (r.toNat ≤ x.toNat)
  | .cls | .ret | .jp _ | .call _ | .seImm _ _ | .sneImm _ _ | .seReg _ _ | .sneReg _ _ | .jpV0 _ _ => false
  | .skp _ | .sknp _ | .ldI _ | .ldF _ | .ldDtVx _ | .ldStVx _ | .ldB _ | .ldMemVx _ => false

/-- The instruction reads or writes memory (R57). -/
def touchesMemory (i : Instr) : Bool :=
  match i with
  | .drw _ _ _ | .ldB _ | .ldMemVx _ | .ldVxMem _ => true
  | .cls | .ret | .jp _ | .call _ | .seImm _ _ | .sneImm _ _ | .seReg _ _ | .sneReg _ _ | .jpV0 _ _ => false
  | .ldImm _ _ | .addImm _ _ | .ldReg _ _ | .orReg _ _ | .andReg _ _ | .xorReg _ _ | .addReg _ _ | .sub _ _ => false
  | .shr _ _ | .subn _ _ | .shl _ _ | .ldI _ | .rnd _ _ | .skp _ | .sknp _ | .ldVxDt _ | .ldDtVx _ => false
  | .ldStVx _ | .addI _ | .ldVxK _ | .ldF _ => false

/-- The new PC of R26, as a number. -/
def nextPc (i : Instr) (s : State) : Nat :=
  match i with
  | .jp nnn | .call nnn => nnn.toNat
  | .ret => (s.stack.toList.getD (s.sp.val - 1) 0).toNat
  | .jpV0 x nnn => nnn.toNat + (if s.config.jumpVariant = .legacy then s.readV 0x0 else s.readV x).toNat
  | .seImm x nn => s.pc.toNat + (if s.readV x = nn then 4 else 2)
  | .sneImm x nn => s.pc.toNat + (if s.readV x = nn then 2 else 4)
  | .seReg x y => s.pc.toNat + (if s.readV x = s.readV y then 4 else 2)
  | .sneReg x y => s.pc.toNat + (if s.readV x = s.readV y then 2 else 4)
  | .skp x => s.pc.toNat + (if s.keys.toList.getD (s.readV x).toNat false = true then 4 else 2)
  | .sknp x => s.pc.toNat + (if s.keys.toList.getD (s.readV x).toNat false = true then 2 else 4)
  | .ldVxK _ => s.pc.toNat + (if true ∈ s.keys.toList then 2 else 0)
  | .cls | .ldImm _ _ | .addImm _ _ | .ldReg _ _ | .orReg _ _ | .andReg _ _ | .xorReg _ _ | .addReg _ _ => s.pc.toNat + 2
  | .sub _ _ | .shr _ _ | .subn _ _ | .shl _ _ | .ldI _ | .rnd _ _ | .drw _ _ _ | .ldVxDt _ | .ldDtVx _ => s.pc.toNat + 2
  | .ldStVx _ | .addI _ | .ldF _ | .ldB _ | .ldMemVx _ | .ldVxMem _ => s.pc.toNat + 2

/-- The byte LD B or LD [I] stores at I + k, if it stores one there (R186, R187). -/
def storedByte (i : Instr) (s : State) (k : Nat) : Option Byte :=
  match i with
  | .ldB x =>
    match k with
    | 0 => some (BitVec.ofNat 8 ((s.readV x).toNat / 100))
    | 1 => some (BitVec.ofNat 8 ((s.readV x).toNat / 10 % 10))
    | 2 => some (BitVec.ofNat 8 ((s.readV x).toNat % 10))
    | _ => none
  | .ldMemVx x => if k ≤ x.toNat then some (s.readV (BitVec.ofNat 4 k)) else none
  | _ => none

/-- The byte at an address after LD B or LD [I]: the stored one, or the one that was there. -/
def byteAfter (i : Instr) (s : State) (a : Nat) : Byte :=
  if s.i.toNat ≤ a then (storedByte i s (a - s.i.toNat)).getD (s.mem.read a) else s.mem.read a

/-- Pushing several words, the first one first. -/
def pushAll (s : State) : List Word → Option State
  | [] => some s
  | w :: ws => (s.push w).bind fun t => pushAll t ws

/-- Popping `n` words, the first popped first, and the state left. -/
def popAll (s : State) : Nat → Option (List Word × State)
  | 0 => some ([], s)
  | n + 1 => s.pop.bind fun p => (popAll p.2 n).map fun q => (p.1 :: q.1, q.2)

/-- `n` timer ticks. -/
def ticks (s : State) : Nat → State
  | 0 => s
  | n + 1 => ticks s.timerTick n

/-- The machine with another SHIFT_VARIANT. -/
def withShift (u : Variant) (s : State) : State := { s with config := { s.config with shiftVariant := u } }

/-- The machine with another JUMP_VARIANT. -/
def withJump (u : Variant) (s : State) : State := { s with config := { s.config with jumpVariant := u } }

end Sys2Proof.Claims

open Sys2Proof Sys2Proof.Machine Sys2Proof.Claims

/-! ### Encoding -/

/-- R70, R71, R76: every well-formed instruction is read back from its word, and from its bytes in memory order. -/
def Obligations.DecodeEncodeRoundTrip : Prop :=
  ∀ i : Instr, i.wellFormed = true →
    decodeWord (encode i) = .ok i ∧ ∀ rest, decode (bytesOfWord (encode i) ++ rest) = .ok (i, rest)

/-- R72, R76, R78: an instruction read from a word is well formed, and the word is its encoding, but for the N of 5XY- and
9XY-. That N is ignored is the spec's decision (D31), and that the encoder writes it as 0, on which the clause
`encode i = w &&& 0xFFF0` rests, is the model's choice (DESIGN CHOICE, log 28). -/
def Obligations.DecodedWordIsItsEncodingButForIgnoredN : Prop :=
  ∀ (w : Word) (i : Instr), decodeWord w = .ok i →
    i.wellFormed = true ∧
      ((∃ x y, (i = .seReg x y ∨ i = .sneReg x y) ∧ encode i = w &&& 0xFFF0) ∨
        ((∀ x y, i ≠ .seReg x y ∧ i ≠ .sneReg x y) ∧ encode i = w))

/-- R77, R204, R207: a fetched word of R77 fails as unsupported with nothing changed, and every other word is an
instruction. That the failure is fatal and applies to every word of R77 is the spec's decision (D6 to D8, log 18). -/
def Obligations.UnsupportedWordsFail : Prop :=
  ∀ (s : State) (w : Word), s.loaded = true → s.fetch = some w →
    (unsupportedWord w → step s = .fault (.unsupportedOperation s.deliver)) ∧
    (¬unsupportedWord w → ∃ i, decodeWord w = .ok i ∧ step s = exec i s.deliver)

/-- R76: the words the source gives, and one word of every other family, read from the rows of the opcode map. -/
def Obligations.SampleWordsDecode : Prop :=
  decodeWord 0x00E0 = .ok .cls ∧ decodeWord 0x00EE = .ok .ret ∧ decodeWord 0x1ABC = .ok (.jp 0xABC) ∧
  decodeWord 0x2300 = .ok (.call 0x300) ∧ decodeWord 0x3F01 = .ok (.seImm 0xF 0x01) ∧
  decodeWord 0x4206 = .ok (.sneImm 0x2 0x06) ∧ decodeWord 0x5341 = .ok (.seReg 0x3 0x4) ∧
  decodeWord 0x6142 = .ok (.ldImm 0x1 0x42) ∧ decodeWord 0x750A = .ok (.addImm 0x5 0x0A) ∧
  decodeWord 0x81F4 = .ok (.addReg 0x1 0xF) ∧ decodeWord 0x812E = .ok (.shl 0x1 0x2) ∧
  decodeWord 0x9340 = .ok (.sneReg 0x3 0x4) ∧ decodeWord 0xA123 = .ok (.ldI 0x123) ∧
  decodeWord 0xB210 = .ok (.jpV0 0x2 0x210) ∧ decodeWord 0xC30F = .ok (.rnd 0x3 0x0F) ∧
  decodeWord 0xD125 = .ok (.drw 0x1 0x2 0x5) ∧ decodeWord 0xE39E = .ok (.skp 0x3) ∧
  decodeWord 0xFA33 = .ok (.ldB 0xA) ∧ decodeWord 0xF265 = .ok (.ldVxMem 0x2)

/-! ### The step -/

/-- R74: when the word at PC decodes to an instruction, one step is that instruction, run after the host's moves that land
before the step (R213; the schedule is the model's, log 5). Those moves leave the fetched word as it was. -/
def Obligations.StepRunsTheDecodedInstruction : Prop :=
  ∀ (s : State) (w : Word) (i : Instr), s.loaded = true → s.fetch = some w → decodeWord w = .ok i →
    s.deliver.fetch = some w ∧ step s = exec i s.deliver

/-- R54, R55, R207: the fetched word is big-endian, and a fetch that needs a byte above 0xFFF ends the step before
anything else is looked at. That outcome is the spec's decision (D4, log 15). -/
def Obligations.FetchIsBigEndianAndBounded : Prop :=
  ∀ s : State, s.loaded = true →
    (s.pc.toNat + 1 ≤ 0xFFF →
      ∃ w : Word, s.fetch = some w ∧
        w.toNat = (s.mem.read s.pc.toNat).toNat * 256 + (s.mem.read (s.pc.toNat + 1)).toNat) ∧
    (0xFFF < s.pc.toNat + 1 → step s = .fault (.fetchOutOfBounds s.pc s.deliver))

/-- R236: the model refuses a step before loadProgram, and a second loadProgram: the spec's decision (D27, logs 11, 26). -/
def Obligations.RefusedUntilLoadedOnce : Prop :=
  ∀ s : State,
    (s.loaded = false → step s = .refused .notLoaded) ∧
    (s.loaded = true → ∀ bytes, s.loadProgram bytes = .refused .alreadyLoaded)

/-- R202 to R206: the state reported with an outcome is the state before the step, but for the PC a failing CALL sets.
These are the spec's decisions D3, D4, D8 to D10, D15 (logs 14, 15, 18, 19, 23). -/
def Obligations.StepFaultsArePrecise : Prop :=
  ∀ (s : State) (f : Fault), step s = .fault f →
    (∃ w nnn, s.fetch = some w ∧ decodeWord w = .ok (.call nnn) ∧ s.sp.val = 16 ∧
      f = .stackOverflow { s.deliver with pc := nnn.setWidth 16 }) ∨
    ((∀ r, f ≠ .stackOverflow r) ∧ f.reported = s.deliver)

/-- R200, R202, R203, R205, R207: which instruction can end with which outcome, when, and with which reported state. The
Undefined outcomes are the spec's decisions D3 and D15 (logs 14, 23). -/
def Obligations.ExecFaultsOnlyWhereTheRulesSay : Prop :=
  ∀ (i : Instr) (s : State) (f : Fault), exec i s = .fault f →
    match f with
    | .stackOverflow r => ∃ nnn, i = .call nnn ∧ s.sp.val = 16 ∧ r = { s with pc := nnn.setWidth 16 }
    | .stackUnderflow r => i = .ret ∧ s.sp.val = 0 ∧ r = s
    | .unsupportedOperation _ => False
    | .fetchOutOfBounds _ _ => False
    | .dataOutOfBounds a r => touchesMemory i = true ∧ 0xFFF < a ∧ s.i.toNat ≤ a ∧ a ≤ s.i.toNat + 15 ∧ r = s
    | .keyIndexOutOfRange k r => ∃ x, (i = .skp x ∨ i = .sknp x) ∧ k = s.readV x ∧ 15 < k.toNat ∧ r = s

/-- R210: every instruction can execute in every state, so no instruction is refused. -/
def Obligations.ExecNeverRefuses : Prop :=
  ∀ (i : Instr) (s : State) (r : Refusal), exec i s ≠ .refused r

/-! ### Control flow -/

/-- R101: JP a. -/
def Obligations.JumpSetsThePc : Prop :=
  ∀ (nnn : Addr) (s : State), decodeWord (0x1#4 ++ nnn) = .ok (.jp nnn) ∧
    ∃ t, exec (.jp nnn) s = .next t ∧ t.pc.toNat = nnn.toNat ∧ s.sameExcept [.pc] t

/-- R102, R202: CALL a pushes PC + 2 and jumps; on a full stack it fails, with the stack unchanged and PC at the target.
The jump after an overflow is the spec's decision (D9, log 19). -/
def Obligations.CallPushesThenJumps : Prop :=
  ∀ (nnn : Addr) (s : State), decodeWord (0x2#4 ++ nnn) = .ok (.call nnn) ∧
    (∀ h : s.sp.val < 16, ∃ t, exec (.call nnn) s = .next t ∧
      t.sp.val = s.sp.val + 1 ∧ t.stack[s.sp.val] = s.pc + 2 ∧
      (∀ k : Fin 16, k.val ≠ s.sp.val → t.stack[k] = s.stack[k]) ∧
      t.pc.toNat = nnn.toNat ∧ s.sameExcept [.sp, .stack, .pc] t) ∧
    (s.sp.val = 16 → ∃ r, exec (.call nnn) s = .fault (.stackOverflow r) ∧
      r.pc.toNat = nnn.toNat ∧ s.sameExcept [.pc] r)

/-- R100, R203: RET pops the most recent entry into PC; on an empty stack it fails. That nothing changes then is the
spec's decision (D10, log 19). -/
def Obligations.ReturnPopsTheTop : Prop :=
  ∀ s : State, decodeWord 0x00EE = .ok .ret ∧
    (∀ h : 0 < s.sp.val, ∃ t, exec .ret s = .next t ∧
      t.pc = s.stack[s.sp.val - 1]'(by omega) ∧ t.sp.val + 1 = s.sp.val ∧ s.sameExcept [.pc, .sp] t) ∧
    (s.sp.val = 0 → exec .ret s = .fault (.stackUnderflow s))

/-- R27, R100, R102, R109: a RET after a CALL returns to the instruction after the CALL, with the stack as it was, whatever
the registers, memory, PC and the entries at SP and above, which no rule reads, have become in between. -/
def Obligations.CallThenReturn : Prop :=
  ∀ (nnn : Addr) (s t u : State), exec (.call nnn) s = .next t → u.sp = t.sp →
    (∀ k : Fin 16, k.val < t.sp.val → u.stack[k] = t.stack[k]) →
    ∃ r, exec .ret u = .next r ∧ r.pc = s.pc + 2 ∧ r.sp = s.sp ∧
      ∀ k : Fin 16, k.val < s.sp.val → r.stack[k] = s.stack[k]

/-- R103, R104: SE Vx, k and SNE Vx, k. -/
def Obligations.ImmediateSkips : Prop :=
  ∀ (x : Reg) (nn : Byte) (s : State),
    decodeWord (0x3#4 ++ x ++ nn) = .ok (.seImm x nn) ∧ Skips (.seImm x nn) s (s.readV x = nn) ∧
    decodeWord (0x4#4 ++ x ++ nn) = .ok (.sneImm x nn) ∧ Skips (.sneImm x nn) s (s.readV x ≠ nn)

/-- R105, R106, R72: SE Vx, Vy and SNE Vx, Vy, for every value of the ignored N (the spec's decision D31, log 28). -/
def Obligations.RegisterSkips : Prop :=
  ∀ (x y : Reg) (n : Nibble) (s : State),
    decodeWord (0x5#4 ++ x ++ y ++ n) = .ok (.seReg x y) ∧ Skips (.seReg x y) s (s.readV x = s.readV y) ∧
    decodeWord (0x9#4 ++ x ++ y ++ n) = .ok (.sneReg x y) ∧ Skips (.sneReg x y) s (s.readV x ≠ s.readV y)

/-- R107, R26: JP V0, a adds V[0] or V[X] to NNN by the variant. That the sum is not reduced to 12 bits is the spec's
decision (D4, log 15). -/
def Obligations.JumpWithOffset : Prop :=
  ∀ (nnn : Addr) (s : State),
    let x : Reg := nnn.extractLsb' 8 4
    decodeWord (0xB#4 ++ nnn) = .ok (.jpV0 x nnn) ∧
    ∃ t, exec (.jpV0 x nnn) s = .next t ∧
      (s.config.jumpVariant = .legacy → t.pc.toNat = nnn.toNat + (s.readV 0x0).toNat) ∧
      (s.config.jumpVariant = .modern → t.pc.toNat = nnn.toNat + (s.readV x).toNat) ∧ s.sameExcept [.pc] t

/-- R170 to R172: SKP and SKNP read the level of the key V[X]. That an index above 15 ends the step is the spec's decision
(D15, log 23). -/
def Obligations.KeySkips : Prop :=
  ∀ (x : Reg) (s : State),
    decodeWord (0xE#4 ++ x ++ 0x9E#8) = .ok (.skp x) ∧ decodeWord (0xE#4 ++ x ++ 0xA1#8) = .ok (.sknp x) ∧
    (∀ h : (s.readV x).toNat < 16,
      Skips (.skp x) s (s.keys[(s.readV x).toNat] = true) ∧ Skips (.sknp x) s (s.keys[(s.readV x).toNat] = false)) ∧
    (15 < (s.readV x).toNat →
      exec (.skp x) s = .fault (.keyIndexOutOfRange (s.readV x) s) ∧
      exec (.sknp x) s = .fault (.keyIndexOutOfRange (s.readV x) s))

/-! ### Immediate, address-register and random instructions -/

/-- R120, R121: LD Vx, k and ADD Vx, k, which sets no flag. -/
def Obligations.LoadAndAddImmediate : Prop :=
  ∀ (x : Reg) (nn : Byte) (s : State),
    WritesRegister (0x6#4 ++ x ++ nn) (.ldImm x nn) s x nn ∧
    WritesRegister (0x7#4 ++ x ++ nn) (.addImm x nn) s x (BitVec.ofNat 8 (((s.readV x).toNat + nn.toNat) % 256))

/-- R122: LD I, a. -/
def Obligations.LoadAddressRegister : Prop :=
  ∀ (nnn : Addr) (s : State), decodeWord (0xA#4 ++ nnn) = .ok (.ldI nnn) ∧
    ∃ t, exec (.ldI nnn) s = .next t ∧ t.i.toNat = nnn.toNat ∧ t.pc = s.pc + 2 ∧ s.sameExcept [.i, .pc] t

/-- R123: RND Vx, k masks one byte, and only bits set in NN can be set. The byte is free (the spec's decision D29, log 6):
nothing is known of `Config.rnd`, and the next draw is another one. -/
def Obligations.RandomByteIsMasked : Prop :=
  ∀ (x : Reg) (nn : Byte) (s : State), decodeWord (0xC#4 ++ x ++ nn) = .ok (.rnd x nn) ∧
    ∃ t, exec (.rnd x nn) s = .next t ∧ t.readV x = Config.rnd s.rndCount &&& nn ∧
      (∀ k, nn.getLsbD k = false → (t.readV x).getLsbD k = false) ∧
      (∀ y, y ≠ x → t.readV y = s.readV y) ∧ t.rndCount = s.rndCount + 1 ∧ t.pc = s.pc + 2 ∧
      s.sameExcept [.v, .rndCount, .pc] t

/-! ### Arithmetic and logic -/

/-- R132 to R135: copy, OR, AND and XOR, which set no flag. -/
def Obligations.CopyAndLogic : Prop :=
  ∀ (x y : Reg) (s : State),
    WritesRegister (0x8#4 ++ x ++ y ++ 0x0#4) (.ldReg x y) s x (s.readV y) ∧
    WritesRegister (0x8#4 ++ x ++ y ++ 0x1#4) (.orReg x y) s x
      (BitVec.ofNat 8 ((s.readV x).toNat ||| (s.readV y).toNat)) ∧
    WritesRegister (0x8#4 ++ x ++ y ++ 0x2#4) (.andReg x y) s x
      (BitVec.ofNat 8 ((s.readV x).toNat &&& (s.readV y).toNat)) ∧
    WritesRegister (0x8#4 ++ x ++ y ++ 0x3#4) (.xorReg x y) s x
      (BitVec.ofNat 8 ((s.readV x).toNat ^^^ (s.readV y).toNat))

/-- R136: ADD Vx, Vy. That the flag stands when X is F is the spec's decision (R131, D11, log 20). -/
def Obligations.AddSetsTheCarry : Prop :=
  ∀ (x y : Reg) (s : State),
    WritesResultAndFlag (0x8#4 ++ x ++ y ++ 0x4#4) (.addReg x y) s x
      (BitVec.ofNat 8 (((s.readV x).toNat + (s.readV y).toNat) % 256))
      (bit ((s.readV x).toNat + (s.readV y).toNat > 255))

/-- R137, R139: SUB and SUBN, with the strict flag. That the flag stands when X is F is the spec's decision (R131, D11,
log 20). -/
def Obligations.SubtractSetsTheStrictFlag : Prop :=
  ∀ (x y : Reg) (s : State),
    WritesResultAndFlag (0x8#4 ++ x ++ y ++ 0x5#4) (.sub x y) s x
      (BitVec.ofNat 8 (((s.readV x).toNat + 256 - (s.readV y).toNat) % 256))
      (bit ((s.readV x).toNat > (s.readV y).toNat)) ∧
    WritesResultAndFlag (0x8#4 ++ x ++ y ++ 0x7#4) (.subn x y) s x
      (BitVec.ofNat 8 (((s.readV y).toNat + 256 - (s.readV x).toNat) % 256))
      (bit ((s.readV y).toNat > (s.readV x).toNat))

/-- R138, R140: SHR and SHL under either variant; VF is the bit shifted out. That the flag stands when X is F is the
spec's decision (R131, D11, log 20). -/
def Obligations.ShiftsFollowTheVariant : Prop :=
  ∀ (x y : Reg) (s : State),
    WritesResultAndFlag (0x8#4 ++ x ++ y ++ 0x6#4) (.shr x y) s x
      (BitVec.ofNat 8 (shifted s x y / 2)) (BitVec.ofNat 8 (shifted s x y % 2)) ∧
    WritesResultAndFlag (0x8#4 ++ x ++ y ++ 0xE#4) (.shl x y) s x
      (BitVec.ofNat 8 (shifted s x y * 2 % 256)) (BitVec.ofNat 8 (shifted s x y / 128))

/-! ### Display -/

/-- R150, R152: CLS sets every pixel false and changes nothing else. -/
def Obligations.ClearDisplay : Prop :=
  ∀ s : State, decodeWord 0x00E0 = .ok .cls ∧
    ∃ t, exec .cls s = .next t ∧ (∀ px py, t.disp.pixel px py = false) ∧ t.pc = s.pc + 2 ∧
      s.sameExcept [.disp, .pc] t

/-- R151, R153, R154: DRW inverts the covered pixels, VF tells whether a lit one was turned off, and a sprite byte above
0xFFF ends the step. The bit order, the coordinates from before the step and the outcome are the spec's decisions D30, D12
and D3 (logs 27, 20, 14). -/
def Obligations.DrawInvertsTheCoveredPixels : Prop :=
  ∀ (x y : Reg) (n : Nibble) (s : State), decodeWord (0xD#4 ++ x ++ y ++ n) = .ok (.drw x y n) ∧
    (n.toNat = 0 ∨ s.i.toNat + n.toNat ≤ 0x1000 →
      ∃ t, exec (.drw x y n) s = .next t ∧
        (∀ px py, covers s x y n px py → t.disp.pixel px py = !s.disp.pixel px py) ∧
        (∀ px py, ¬covers s x y n px py → t.disp.pixel px py = s.disp.pixel px py) ∧
        (t.readV 0xF = 1 ∨ t.readV 0xF = 0) ∧
        (t.readV 0xF = 1 ↔ ∃ px py, covers s x y n px py ∧ s.disp.pixel px py = true) ∧
        (∀ r, r ≠ 0xF → t.readV r = s.readV r) ∧ t.pc = s.pc + 2 ∧ s.sameExcept [.disp, .v, .pc] t) ∧
    (0 < n.toNat → 0x1000 < s.i.toNat + n.toNat →
      exec (.drw x y n) s = .fault (.dataOutOfBounds (s.i.toNat + n.toNat - 1) s))

/-- R151, R153, S4 of 95_test_vectors.md: drawing the same sprite twice at the same place restores the display, and the
second draw collides exactly where the first one lit a pixel. X and Y are not F, since the first draw writes VF. The VF
clause is what the pseudocode gives and not the corner case beside it (DEDUCED, log 32). -/
def Obligations.DrawingTwiceRestores : Prop :=
  ∀ (x y : Reg) (n : Nibble) (s t u : State), x ≠ 0xF → y ≠ 0xF →
    exec (.drw x y n) s = .next t → exec (.drw x y n) t = .next u →
    u.disp = s.disp ∧
      (u.readV 0xF = 1 ↔ ∃ px py, covers s x y n px py ∧ s.disp.pixel px py = false ∧ t.disp.pixel px py = true)

/-- A corner case R151 states (and S4 reads out of the source): the second of two equal draws gives VF = 1 iff the sprite
has at least one set bit. Expected to FAIL: by the pseudocode of R151 and R153, which the model follows, a sprite whose
pixels are all lit before the first draw collides in the first draw and not in the second (log 32). -/
def Obligations.SecondDrawFlagTellsSetBits : Prop :=
  ∀ (x y : Reg) (n : Nibble) (s t u : State), x ≠ 0xF → y ≠ 0xF →
    exec (.drw x y n) s = .next t → exec (.drw x y n) t = .next u →
    (u.readV 0xF = 1 ↔ ∃ r < n.toNat, s.mem.read (s.dataAddr r) ≠ 0)

/-! ### Timers, address register and memory blocks -/

/-- R180 to R182: the timer transfers. -/
def Obligations.TimerRegisterTransfers : Prop :=
  ∀ (x : Reg) (s : State),
    WritesRegister (0xF#4 ++ x ++ 0x07#8) (.ldVxDt x) s x s.dt ∧
    (decodeWord (0xF#4 ++ x ++ 0x15#8) = .ok (.ldDtVx x) ∧
      ∃ t, exec (.ldDtVx x) s = .next t ∧ t.dt = s.readV x ∧ t.pc = s.pc + 2 ∧ s.sameExcept [.dt, .pc] t) ∧
    (decodeWord (0xF#4 ++ x ++ 0x18#8) = .ok (.ldStVx x) ∧
      ∃ t, exec (.ldStVx x) s = .next t ∧ t.st = s.readV x ∧ t.pc = s.pc + 2 ∧ s.sameExcept [.st, .pc] t)

/-- R183: ADD I, Vx; the flag tests the new I. The 16-bit wrap and that test are the spec's decision (D13, log 21). -/
def Obligations.AddToAddressRegister : Prop :=
  ∀ (x : Reg) (s : State), decodeWord (0xF#4 ++ x ++ 0x1E#8) = .ok (.addI x) ∧
    ∃ t, exec (.addI x) s = .next t ∧ t.i.toNat = (s.i.toNat + (s.readV x).toNat) % 65536 ∧
      t.readV 0xF = bit ((s.i.toNat + (s.readV x).toNat) % 65536 > 0xFFF) ∧
      (∀ r, r ≠ 0xF → t.readV r = s.readV r) ∧ t.pc = s.pc + 2 ∧ s.sameExcept [.i, .v, .pc] t

/-- R184: LD Vx, K takes the lowest pressed key (the spec's decision D16, log 24), or changes nothing while no key is
pressed. -/
def Obligations.KeyWait : Prop :=
  ∀ (x : Reg) (s : State), decodeWord (0xF#4 ++ x ++ 0x0A#8) = .ok (.ldVxK x) ∧
    (∀ k : Fin 16, s.keys[k] = true → (∀ j : Fin 16, j < k → s.keys[j] = false) →
      WritesRegister (0xF#4 ++ x ++ 0x0A#8) (.ldVxK x) s x (BitVec.ofNat 8 k.val)) ∧
    ((∀ k : Fin 16, s.keys[k] = false) → exec (.ldVxK x) s = .next s)

/-- R185: LD F, Vx points I at the glyph of the low nibble. That the offset starts at FONT_BASE is the spec's decision
(D18, log 3). -/
def Obligations.GlyphAddress : Prop :=
  ∀ (x : Reg) (s : State), decodeWord (0xF#4 ++ x ++ 0x29#8) = .ok (.ldF x) ∧
    ∃ t, exec (.ldF x) s = .next t ∧ t.i.toNat = s.config.fontBase.toNat + 5 * ((s.readV x).toNat % 16) ∧
      t.pc = s.pc + 2 ∧ s.sameExcept [.i, .pc] t

/-- R186: LD B, Vx stores the decimal digits at I, I + 1, I + 2, and no other byte changes. The outcome above 0xFFF is the
spec's decision (D3, log 14). -/
def Obligations.DecimalDigits : Prop :=
  ∀ (x : Reg) (s : State), s.memoryCanonical → decodeWord (0xF#4 ++ x ++ 0x33#8) = .ok (.ldB x) ∧
    (s.i.toNat + 2 ≤ 0xFFF → ∃ t, exec (.ldB x) s = .next t ∧
      t.mem.read (s.dataAddr 0) = BitVec.ofNat 8 ((s.readV x).toNat / 100) ∧
      t.mem.read (s.dataAddr 1) = BitVec.ofNat 8 ((s.readV x).toNat / 10 % 10) ∧
      t.mem.read (s.dataAddr 2) = BitVec.ofNat 8 ((s.readV x).toNat % 10) ∧
      (∀ a, a < s.dataAddr 0 ∨ s.dataAddr 2 < a → t.mem.read a = s.mem.read a) ∧
      t.pc = s.pc + 2 ∧ s.sameExcept [.mem, .pc] t) ∧
    (0xFFF < s.i.toNat + 2 → exec (.ldB x) s = .fault (.dataOutOfBounds (s.i.toNat + 2) s))

/-- R187: LD [I], Vx stores V[0] to V[X] from I on, and no other byte changes. I unchanged and the outcome above 0xFFF are
the spec's decisions (D14, D3, logs 22, 14). -/
def Obligations.StoreRegisterBlock : Prop :=
  ∀ (x : Reg) (s : State), s.memoryCanonical → decodeWord (0xF#4 ++ x ++ 0x55#8) = .ok (.ldMemVx x) ∧
    (s.i.toNat + x.toNat ≤ 0xFFF → ∃ t, exec (.ldMemVx x) s = .next t ∧
      (∀ r : Reg, r.toNat ≤ x.toNat → t.mem.read (s.dataAddr r.toNat) = s.readV r) ∧
      (∀ a, a < s.dataAddr 0 ∨ s.dataAddr x.toNat < a → t.mem.read a = s.mem.read a) ∧
      t.pc = s.pc + 2 ∧ s.sameExcept [.mem, .pc] t) ∧
    (0xFFF < s.i.toNat + x.toNat → exec (.ldMemVx x) s = .fault (.dataOutOfBounds (s.i.toNat + x.toNat) s))

/-- R188: LD Vx, [I] loads V[0] to V[X] from I on, and no other register changes. I unchanged and the outcome above 0xFFF
are the spec's decisions (D14, D3, logs 22, 14). -/
def Obligations.LoadRegisterBlock : Prop :=
  ∀ (x : Reg) (s : State), decodeWord (0xF#4 ++ x ++ 0x65#8) = .ok (.ldVxMem x) ∧
    (s.i.toNat + x.toNat ≤ 0xFFF → ∃ t, exec (.ldVxMem x) s = .next t ∧
      (∀ r : Reg, r.toNat ≤ x.toNat → t.readV r = s.mem.read (s.dataAddr r.toNat)) ∧
      (∀ r : Reg, x.toNat < r.toNat → t.readV r = s.readV r) ∧
      t.pc = s.pc + 2 ∧ s.sameExcept [.v, .pc] t) ∧
    (0xFFF < s.i.toNat + x.toNat → exec (.ldVxMem x) s = .fault (.dataOutOfBounds (s.i.toNat + x.toNat) s))

/-- R187, R188: a block stored and loaded again from the same I gives the registers back, whatever they became in between. -/
def Obligations.StoreThenLoadRestores : Prop :=
  ∀ (x : Reg) (s t u : State), s.memoryCanonical → exec (.ldMemVx x) s = .next t → u.mem = t.mem → u.i = t.i →
    ∃ r, exec (.ldVxMem x) u = .next r ∧ ∀ k : Reg, k.toNat ≤ x.toNat → r.readV k = s.readV k

/-- R66, R241: a step of LD B or LD [I] runs the word fetched before it stores anything, even where it stores over that
word, and every later fetch reads each byte it stored and, of the other bytes, what stood there before: the next step's
fetch, at PC + 2, and any other as long as the two bytes it reads are not written again. -/
def Obligations.StoredBytesAreFetchedNext : Prop :=
  ∀ (s t : State) (w : Word) (i : Instr), s.memoryCanonical → s.loaded = true → s.fetch = some w → decodeWord w = .ok i →
    (∃ x, i = .ldB x ∨ i = .ldMemVx x) → step s = .next t →
      t.pc = s.pc + 2 ∧
      ∀ u : State, u.mem.read u.pc.toNat = t.mem.read u.pc.toNat → u.mem.read (u.pc.toNat + 1) = t.mem.read (u.pc.toNat + 1) →
        u.pc.toNat + 1 ≤ 0xFFF → u.fetch = some (byteAfter i s u.pc.toNat ++ byteAfter i s (u.pc.toNat + 1))

/-! ### The call stack -/

/-- R28 to R30: as many pushes as there is room for succeed and come back last in first out, one more fails, and a pop of
an empty stack fails (S5 of 95_test_vectors.md). -/
def Obligations.StackIsLastInFirstOut : Prop :=
  ∀ (s : State) (ws : List Word),
    (s.sp.val + ws.length ≤ 16 → ∃ t u, pushAll s ws = some t ∧ t.sp.val = s.sp.val + ws.length ∧
      popAll t ws.length = some (ws.reverse, u) ∧ u.sp = s.sp ∧
      ∀ k : Fin 16, k.val < s.sp.val → u.stack[k] = s.stack[k]) ∧
    (16 < s.sp.val + ws.length → pushAll s ws = none) ∧
    (s.sp.val = 0 → s.pop = none)

/-! ### Rules of the whole machine -/

/-- R23, R24, R27, R31 to R33, R57: each piece of the state is written by the instructions that are said to write it, and
by no other. -/
def Obligations.EachInstructionWritesOnlyItsFields : Prop :=
  ∀ (i : Instr) (s t : State), exec i s = .next t → s.sameExcept (.pc :: writes i) t

/-- R22, R23: a register changes only as the destination, as VF in an instruction that documents a flag, or in the range
of FX65. -/
def Obligations.RegistersChangeOnlyWhereNamed : Prop :=
  ∀ (i : Instr) (s t : State) (r : Reg), exec i s = .next t → mayWriteReg i r = false → t.readV r = s.readV r

/-- R26: the table of the new PC, from every PC an instruction can be fetched at, with no wrap. -/
def Obligations.ProgramCounterTable : Prop :=
  ∀ (i : Instr) (s t : State), s.pc.toNat + 1 ≤ 0xFFF → exec i s = .next t → t.pc.toNat = nextPc i s

/-- R57: outside DXYN, FX33, FX55 and FX65 an instruction neither reads nor writes memory: with another memory it does the
same, and that memory comes out as it went in. -/
def Obligations.MemoryIsInvisibleToOtherInstructions : Prop :=
  ∀ (i : Instr) (s : State) (m : Memory), touchesMemory i = false →
    exec i { s with mem := m } = mapState (fun t => { t with mem := m }) (exec i s)

/-- R32: no instruction reads ST: with another ST every instruction does the same, and but for FX18, which overwrites it,
that ST comes out as it went in. -/
def Obligations.SoundTimerIsNeverRead : Prop :=
  ∀ (i : Instr) (s : State) (b : Byte),
    ((∀ x, i ≠ .ldStVx x) → exec i { s with st := b } = mapState (fun t => { t with st := b }) (exec i s)) ∧
    (∀ x, i = .ldStVx x → exec i { s with st := b } = exec i s)

/-- R79: decoding is the same under every configuration, the font parameters included (R8); SHIFT_VARIANT changes what 8XY6 and 8XYE do and nothing else, and
JUMP_VARIANT what BNNN does and nothing else. -/
def Obligations.VariantsMatterOnlyToTheirForms : Prop :=
  (∀ (s : State) (c : Config), { s with config := c }.fetch.map decodeWord = s.fetch.map decodeWord) ∧
  (∀ (i : Instr) (s : State) (u : Variant), (∀ x y, i ≠ .shr x y ∧ i ≠ .shl x y) →
    exec i (withShift u s) = mapState (withShift u) (exec i s)) ∧
  (∀ (i : Instr) (s : State) (u : Variant), (∀ x nnn, i ≠ .jpV0 x nnn) →
    exec i (withJump u s) = mapState (withJump u) (exec i s)) ∧
  (∃ s t u, exec (.shr 0x1 0x2) (withShift .legacy s) = .next t ∧ exec (.shr 0x1 0x2) (withShift .modern s) = .next u ∧
    t.readV 0x1 ≠ u.readV 0x1) ∧
  (∃ s t u, exec (.shl 0x1 0x2) (withShift .legacy s) = .next t ∧ exec (.shl 0x1 0x2) (withShift .modern s) = .next u ∧
    t.readV 0x1 ≠ u.readV 0x1) ∧
  (∃ s t u, exec (.jpV0 0x2 0x210) (withJump .legacy s) = .next t ∧
    exec (.jpV0 0x2 0x210) (withJump .modern s) = .next u ∧ t.pc ≠ u.pc)

/-! ### Host moves, reset and loading -/

/-- R212: n ticks take n from each timer, down to 0, and change nothing else. Both timers moving together and the floor
are the spec's decision (D21, log 25). -/
def Obligations.TicksCountDownToZero : Prop :=
  ∀ (n : Nat) (s : State),
    (ticks s n).dt.toNat = s.dt.toNat - n ∧ (ticks s n).st.toNat = s.st.toNat - n ∧ s.sameExcept [.dt, .st] (ticks s n)

/-- R212 to R214, R220: whatever the host has scheduled before a step, it changes timers and keys alone, and its moves
land in order, each one whole: a tick moves both timers and no key, a key change sets its key and nothing else. That a
tick takes one from each timer, down to 0, is the spec's decision (D21, log 25), and the schedule is the model's own field
(log 5): an empty one holds no move, and each step takes one entry. -/
def Obligations.HostMovesTouchOnlyTimersAndKeys : Prop :=
  ∀ s : State, s.sameExcept [.dt, .st, .keys, .inputs] s.deliver ∧
    (s.inputs = [] → s.deliver = s) ∧
    (∀ rest, s.inputs = [] :: rest → s.deliver = { s with inputs := rest }) ∧
    (∀ es rest, s.inputs = (es ++ [ExternalEvent.timerTick]) :: rest →
      let r := { s with inputs := es :: rest }.deliver
      s.deliver.dt.toNat = r.dt.toNat - 1 ∧ s.deliver.st.toNat = r.st.toNat - 1 ∧ r.sameExcept [.dt, .st] s.deliver) ∧
    (∀ es rest k p, s.inputs = (es ++ [ExternalEvent.keyChange k p]) :: rest →
      let r := { s with inputs := es :: rest }.deliver
      s.deliver.keys[k.toNat]'k.isLt = p ∧ (∀ j : Fin 16, j.val ≠ k.toNat → s.deliver.keys[j] = r.keys[j]) ∧
        r.sameExcept [.keys] s.deliver) ∧
    (∀ n rest, s.inputs = List.replicate n ExternalEvent.timerTick :: rest →
      s.deliver.dt.toNat = s.dt.toNat - n ∧ s.deliver.st.toNat = s.st.toNat - n ∧ s.deliver.keys = s.keys)

/-- R230, R37: what reset leaves, of the values the spec gives: memory zero, display clear, stack empty, PC not yet set,
FONT_BASE at its default. -/
def Obligations.ResetIsTheAllocatedMachine : Prop :=
  (∀ a, State.reset.mem.read a = 0x00) ∧ (∀ px py, State.reset.disp.pixel px py = false) ∧ State.reset.sp.val = 0 ∧
    State.reset.loaded = false ∧ State.reset.config.fontBase = 0x000

/-- R234: loadProgram copies an image that passes the size check to 0x200 verbatim, sets PC to 0x200, and changes nothing
else. -/
def Obligations.LoadProgramPlacesTheImage : Prop :=
  ∀ (s : State) (bytes : List Byte), s.memoryCanonical → s.loaded = false → bytes.length ≤ 3584 →
    ∃ t, s.loadProgram bytes = .ok t ∧ t.pc = 0x200 ∧ t.loaded = true ∧
      (∀ (k : Nat) (h : k < bytes.length), t.mem.read (0x200 + k) = bytes[k]) ∧
      (∀ a, a < 0x200 ∨ 0x200 + bytes.length ≤ a → t.mem.read a = s.mem.read a) ∧
      s.sameExcept [.mem, .pc, .loaded] t

/-- R63: a copy that would run past the end of memory is not done at all; any other puts the bytes where they belong and
leaves the rest of memory. -/
def Obligations.CopyIsAllOrNothing : Prop :=
  ∀ (m : Memory) (dst : Nat) (bytes : List Byte), m.wf →
    (4096 < dst + bytes.length → m.copy dst bytes = none) ∧
    (dst + bytes.length ≤ 4096 → ∃ m', m.copy dst bytes = some m' ∧
      (∀ (k : Nat) (h : k < bytes.length), m'.read (dst + k) = bytes[k]) ∧
      ∀ a, a < dst ∨ dst + bytes.length ≤ a → m'.read a = m.read a)

/-- R62, R185, R232: after the font load, LD F points I at the five rows of the digit's glyph. -/
def Obligations.GlyphsStandWhereLdFPoints : Prop :=
  ∀ (s t : State) (x : Reg) (row : Fin 5), s.memoryCanonical → s.configValid → exec (.ldF x) s.loadFont = .next t →
    t.mem.read (t.i.toNat + row.val) =
      s.config.fontTable[5 * ((s.readV x).toNat % 16) + row.val]'(by have := row.isLt; omega)

/-- R60, R230 to R235: after the boot path memory holds the font at FONT_BASE, the image from 0x200 on and zero elsewhere,
and an image that is too large loads nothing. The font bytes themselves are the default FONT_TABLE (log 3). -/
def Obligations.BootedMemoryMap : Prop :=
  ∀ bytes : List Byte,
    (bytes.length ≤ 3584 → ∃ t, State.boot bytes = .ok t ∧ t.pc = 0x200 ∧ t.loaded = true ∧
      ∀ a, t.mem.read a =
        if a < 0x50 then Config.defaultFontTable.toList.getD a 0
        else if 0x200 ≤ a then bytes.getD (a - 0x200) 0 else 0) ∧
    (3584 < bytes.length → State.boot bytes = .error .tooLarge)

/-! ### Invariants -/

/-- R50, R58, R61, and the model's representation (log 13): every step keeps memory in its canonical form. -/
def Obligations.StepKeepsMemoryCanonical : Prop :=
  ∀ s t : State, s.memoryCanonical → step s = .next t → t.memoryCanonical

/-- R26, R35: every step keeps PC in 0..0x10FE, with the stack entries in use in 0..0x1000. -/
def Obligations.StepKeepsPcInRange : Prop :=
  ∀ s t : State, s.pcInRange → step s = .next t → t.pcInRange

/-- R8, R236: every step keeps the configuration, and a machine that has stepped is a loaded one. -/
def Obligations.StepKeepsTheConfiguration : Prop :=
  ∀ s t : State, step s = .next t → t.config = s.config ∧ s.loaded = true ∧ t.loaded = true

/-- The invariants hold at reset, of the machine's own default font parameters (R8, R37). -/
def Obligations.ResetMeetsTheInvariants : Prop :=
  State.reset.memoryCanonical ∧ State.reset.pcInRange ∧ State.reset.configValid

/-- The invariants hold after every boot and along every run from any state that meets them, whatever the host does between
the steps (R213). -/
def Obligations.InvariantsHoldAlongEveryRun : Prop :=
  (∀ (bytes : List Byte) (s : State), State.boot bytes = .ok s →
    s.memoryCanonical ∧ s.pcInRange ∧ s.configValid) ∧
  (∀ (n : Nat) (s t : State), s.memoryCanonical ∧ s.pcInRange ∧ s.configValid →
    Host.Core.run Sys2Proof.core n s = .next t → t.memoryCanonical ∧ t.pcInRange ∧ t.configValid)

/-! ### Runs -/

/-- R184, R243: while no key is pressed and the host does nothing, a machine at FX0A stays as it is for any number of steps,
each of which succeeds. -/
def Obligations.KeyWaitSpins : Prop :=
  ∀ (n : Nat) (s : State) (w : Word) (x : Reg), s.loaded = true → s.inputs = [] → s.fetch = some w →
    decodeWord w = .ok (.ldVxK x) → (∀ k : Fin 16, s.keys[k] = false) →
    Host.Core.run Sys2Proof.core n s = .next s

/-- R101, R221: a finished run, at a jump to its own address, stays as it is for any number of steps when the host does
nothing. The word "finished" is the spec's own definition (D36). -/
def Obligations.FinishedRunStaysFinished : Prop :=
  ∀ (n : Nat) (s : State), s.loaded = true → s.inputs = [] → s.finished = true →
    Host.Core.run Sys2Proof.core n s = .next s ∧ SafeRun n s

/-! ### Outcomes -/

/-- R200: a step of a loaded machine ends with exactly one outcome of the table, with its code and its kind. The codes are
the spec's own labels (D25, log 29). -/
def Obligations.EveryStepEndsInOneOutcomeOfTheTable : Prop :=
  ∀ s : State, s.loaded = true →
    ∃ c k, outcomeCode (step s) = some c ∧ outcomeKind (step s) = some k ∧
      match step s with
      | .next _ => c = 0 ∧ k = .success
      | .fault (.stackOverflow _) => c = 1 ∧ k = .engineFailure
      | .fault (.stackUnderflow _) => c = 2 ∧ k = .engineFailure
      | .fault (.unsupportedOperation _) => c = 3 ∧ k = .engineFailure
      | .fault (.fetchOutOfBounds _ _) => c = 0x10 ∧ k = .modelOnly
      | .fault (.dataOutOfBounds _ _) => c = 0x11 ∧ k = .modelOnly
      | .fault (.keyIndexOutOfRange _ _) => c = 0x12 ∧ k = .modelOnly
      | .refused _ => False
end

