-- ==== Sys2Proof/Laws/State.lean ====
section
/-!
SUPPORT. One lemma per field per update of the state, each true by rfl, and what a register reads after each update.
-/

namespace Sys2Proof.Machine

open Sys2Proof

/-! ### writeV -/

@[simp] theorem State.writeV_mem (s : State) (x : Reg) (b : Byte) : (s.writeV x b).mem = s.mem := rfl
@[simp] theorem State.writeV_i (s : State) (x : Reg) (b : Byte) : (s.writeV x b).i = s.i := rfl
@[simp] theorem State.writeV_pc (s : State) (x : Reg) (b : Byte) : (s.writeV x b).pc = s.pc := rfl
@[simp] theorem State.writeV_loaded (s : State) (x : Reg) (b : Byte) : (s.writeV x b).loaded = s.loaded := rfl
@[simp] theorem State.writeV_sp (s : State) (x : Reg) (b : Byte) : (s.writeV x b).sp = s.sp := rfl
@[simp] theorem State.writeV_stack (s : State) (x : Reg) (b : Byte) : (s.writeV x b).stack = s.stack := rfl
@[simp] theorem State.writeV_dt (s : State) (x : Reg) (b : Byte) : (s.writeV x b).dt = s.dt := rfl
@[simp] theorem State.writeV_st (s : State) (x : Reg) (b : Byte) : (s.writeV x b).st = s.st := rfl
@[simp] theorem State.writeV_disp (s : State) (x : Reg) (b : Byte) : (s.writeV x b).disp = s.disp := rfl
@[simp] theorem State.writeV_keys (s : State) (x : Reg) (b : Byte) : (s.writeV x b).keys = s.keys := rfl
@[simp] theorem State.writeV_inputs (s : State) (x : Reg) (b : Byte) : (s.writeV x b).inputs = s.inputs := rfl
@[simp] theorem State.writeV_rndCount (s : State) (x : Reg) (b : Byte) : (s.writeV x b).rndCount = s.rndCount := rfl
@[simp] theorem State.writeV_config (s : State) (x : Reg) (b : Byte) : (s.writeV x b).config = s.config := rfl

/-! ### writeVFlag -/

@[simp] theorem State.writeVFlag_mem (s : State) (x : Reg) (b flag : Byte) : (s.writeVFlag x b flag).mem = s.mem := rfl
@[simp] theorem State.writeVFlag_i (s : State) (x : Reg) (b flag : Byte) : (s.writeVFlag x b flag).i = s.i := rfl
@[simp] theorem State.writeVFlag_pc (s : State) (x : Reg) (b flag : Byte) : (s.writeVFlag x b flag).pc = s.pc := rfl
@[simp] theorem State.writeVFlag_loaded (s : State) (x : Reg) (b flag : Byte) : (s.writeVFlag x b flag).loaded = s.loaded := rfl
@[simp] theorem State.writeVFlag_sp (s : State) (x : Reg) (b flag : Byte) : (s.writeVFlag x b flag).sp = s.sp := rfl
@[simp] theorem State.writeVFlag_stack (s : State) (x : Reg) (b flag : Byte) : (s.writeVFlag x b flag).stack = s.stack := rfl
@[simp] theorem State.writeVFlag_dt (s : State) (x : Reg) (b flag : Byte) : (s.writeVFlag x b flag).dt = s.dt := rfl
@[simp] theorem State.writeVFlag_st (s : State) (x : Reg) (b flag : Byte) : (s.writeVFlag x b flag).st = s.st := rfl
@[simp] theorem State.writeVFlag_disp (s : State) (x : Reg) (b flag : Byte) : (s.writeVFlag x b flag).disp = s.disp := rfl
@[simp] theorem State.writeVFlag_keys (s : State) (x : Reg) (b flag : Byte) : (s.writeVFlag x b flag).keys = s.keys := rfl
@[simp] theorem State.writeVFlag_inputs (s : State) (x : Reg) (b flag : Byte) : (s.writeVFlag x b flag).inputs = s.inputs := rfl
@[simp] theorem State.writeVFlag_rndCount (s : State) (x : Reg) (b flag : Byte) : (s.writeVFlag x b flag).rndCount = s.rndCount := rfl
@[simp] theorem State.writeVFlag_config (s : State) (x : Reg) (b flag : Byte) : (s.writeVFlag x b flag).config = s.config := rfl

/-! ### advance -/

@[simp] theorem State.advance_mem (s : State) : s.advance.mem = s.mem := rfl
@[simp] theorem State.advance_v (s : State) : s.advance.v = s.v := rfl
@[simp] theorem State.advance_i (s : State) : s.advance.i = s.i := rfl
@[simp] theorem State.advance_pc (s : State) : s.advance.pc = s.pc + 2 := rfl
@[simp] theorem State.advance_loaded (s : State) : s.advance.loaded = s.loaded := rfl
@[simp] theorem State.advance_sp (s : State) : s.advance.sp = s.sp := rfl
@[simp] theorem State.advance_stack (s : State) : s.advance.stack = s.stack := rfl
@[simp] theorem State.advance_dt (s : State) : s.advance.dt = s.dt := rfl
@[simp] theorem State.advance_st (s : State) : s.advance.st = s.st := rfl
@[simp] theorem State.advance_disp (s : State) : s.advance.disp = s.disp := rfl
@[simp] theorem State.advance_keys (s : State) : s.advance.keys = s.keys := rfl
@[simp] theorem State.advance_inputs (s : State) : s.advance.inputs = s.inputs := rfl
@[simp] theorem State.advance_rndCount (s : State) : s.advance.rndCount = s.rndCount := rfl
@[simp] theorem State.advance_config (s : State) : s.advance.config = s.config := rfl
@[simp] theorem State.advance_readV (s : State) (y : Reg) : s.advance.readV y = s.readV y := rfl

/-! ### skipIf -/

@[simp] theorem State.skipIf_mem (s : State) (c : Bool) : (s.skipIf c).mem = s.mem := rfl
@[simp] theorem State.skipIf_v (s : State) (c : Bool) : (s.skipIf c).v = s.v := rfl
@[simp] theorem State.skipIf_i (s : State) (c : Bool) : (s.skipIf c).i = s.i := rfl
@[simp] theorem State.skipIf_pc (s : State) (c : Bool) : (s.skipIf c).pc = if c then s.pc + 4 else s.pc + 2 := rfl
@[simp] theorem State.skipIf_loaded (s : State) (c : Bool) : (s.skipIf c).loaded = s.loaded := rfl
@[simp] theorem State.skipIf_sp (s : State) (c : Bool) : (s.skipIf c).sp = s.sp := rfl
@[simp] theorem State.skipIf_stack (s : State) (c : Bool) : (s.skipIf c).stack = s.stack := rfl
@[simp] theorem State.skipIf_dt (s : State) (c : Bool) : (s.skipIf c).dt = s.dt := rfl
@[simp] theorem State.skipIf_st (s : State) (c : Bool) : (s.skipIf c).st = s.st := rfl
@[simp] theorem State.skipIf_disp (s : State) (c : Bool) : (s.skipIf c).disp = s.disp := rfl
@[simp] theorem State.skipIf_keys (s : State) (c : Bool) : (s.skipIf c).keys = s.keys := rfl
@[simp] theorem State.skipIf_inputs (s : State) (c : Bool) : (s.skipIf c).inputs = s.inputs := rfl
@[simp] theorem State.skipIf_rndCount (s : State) (c : Bool) : (s.skipIf c).rndCount = s.rndCount := rfl
@[simp] theorem State.skipIf_config (s : State) (c : Bool) : (s.skipIf c).config = s.config := rfl
@[simp] theorem State.skipIf_readV (s : State) (c : Bool) (y : Reg) : (s.skipIf c).readV y = s.readV y := rfl

/-! ### jumpTo -/

@[simp] theorem State.jumpTo_mem (s : State) (w : Word) : (s.jumpTo w).mem = s.mem := rfl
@[simp] theorem State.jumpTo_v (s : State) (w : Word) : (s.jumpTo w).v = s.v := rfl
@[simp] theorem State.jumpTo_i (s : State) (w : Word) : (s.jumpTo w).i = s.i := rfl
@[simp] theorem State.jumpTo_pc (s : State) (w : Word) : (s.jumpTo w).pc = w := rfl
@[simp] theorem State.jumpTo_loaded (s : State) (w : Word) : (s.jumpTo w).loaded = s.loaded := rfl
@[simp] theorem State.jumpTo_sp (s : State) (w : Word) : (s.jumpTo w).sp = s.sp := rfl
@[simp] theorem State.jumpTo_stack (s : State) (w : Word) : (s.jumpTo w).stack = s.stack := rfl
@[simp] theorem State.jumpTo_dt (s : State) (w : Word) : (s.jumpTo w).dt = s.dt := rfl
@[simp] theorem State.jumpTo_st (s : State) (w : Word) : (s.jumpTo w).st = s.st := rfl
@[simp] theorem State.jumpTo_disp (s : State) (w : Word) : (s.jumpTo w).disp = s.disp := rfl
@[simp] theorem State.jumpTo_keys (s : State) (w : Word) : (s.jumpTo w).keys = s.keys := rfl
@[simp] theorem State.jumpTo_inputs (s : State) (w : Word) : (s.jumpTo w).inputs = s.inputs := rfl
@[simp] theorem State.jumpTo_rndCount (s : State) (w : Word) : (s.jumpTo w).rndCount = s.rndCount := rfl
@[simp] theorem State.jumpTo_config (s : State) (w : Word) : (s.jumpTo w).config = s.config := rfl
@[simp] theorem State.jumpTo_readV (s : State) (w : Word) (y : Reg) : (s.jumpTo w).readV y = s.readV y := rfl

/-! ### writeBlock -/

@[simp] theorem State.writeBlock_mem (s : State) (bytes : List Byte) : (s.writeBlock bytes).mem = s.mem.writeBytes (s.dataAddr 0) bytes := rfl
@[simp] theorem State.writeBlock_v (s : State) (bytes : List Byte) : (s.writeBlock bytes).v = s.v := rfl
@[simp] theorem State.writeBlock_i (s : State) (bytes : List Byte) : (s.writeBlock bytes).i = s.i := rfl
@[simp] theorem State.writeBlock_pc (s : State) (bytes : List Byte) : (s.writeBlock bytes).pc = s.pc := rfl
@[simp] theorem State.writeBlock_loaded (s : State) (bytes : List Byte) : (s.writeBlock bytes).loaded = s.loaded := rfl
@[simp] theorem State.writeBlock_sp (s : State) (bytes : List Byte) : (s.writeBlock bytes).sp = s.sp := rfl
@[simp] theorem State.writeBlock_stack (s : State) (bytes : List Byte) : (s.writeBlock bytes).stack = s.stack := rfl
@[simp] theorem State.writeBlock_dt (s : State) (bytes : List Byte) : (s.writeBlock bytes).dt = s.dt := rfl
@[simp] theorem State.writeBlock_st (s : State) (bytes : List Byte) : (s.writeBlock bytes).st = s.st := rfl
@[simp] theorem State.writeBlock_disp (s : State) (bytes : List Byte) : (s.writeBlock bytes).disp = s.disp := rfl
@[simp] theorem State.writeBlock_keys (s : State) (bytes : List Byte) : (s.writeBlock bytes).keys = s.keys := rfl
@[simp] theorem State.writeBlock_inputs (s : State) (bytes : List Byte) : (s.writeBlock bytes).inputs = s.inputs := rfl
@[simp] theorem State.writeBlock_rndCount (s : State) (bytes : List Byte) : (s.writeBlock bytes).rndCount = s.rndCount := rfl
@[simp] theorem State.writeBlock_config (s : State) (bytes : List Byte) : (s.writeBlock bytes).config = s.config := rfl
@[simp] theorem State.writeBlock_readV (s : State) (bytes : List Byte) (y : Reg) : (s.writeBlock bytes).readV y = s.readV y := rfl

/-! ### writeRegs -/

@[simp] theorem State.writeRegs_mem (s : State) (bytes : List Byte) : (s.writeRegs bytes).mem = s.mem := rfl
@[simp] theorem State.writeRegs_i (s : State) (bytes : List Byte) : (s.writeRegs bytes).i = s.i := rfl
@[simp] theorem State.writeRegs_pc (s : State) (bytes : List Byte) : (s.writeRegs bytes).pc = s.pc := rfl
@[simp] theorem State.writeRegs_loaded (s : State) (bytes : List Byte) : (s.writeRegs bytes).loaded = s.loaded := rfl
@[simp] theorem State.writeRegs_sp (s : State) (bytes : List Byte) : (s.writeRegs bytes).sp = s.sp := rfl
@[simp] theorem State.writeRegs_stack (s : State) (bytes : List Byte) : (s.writeRegs bytes).stack = s.stack := rfl
@[simp] theorem State.writeRegs_dt (s : State) (bytes : List Byte) : (s.writeRegs bytes).dt = s.dt := rfl
@[simp] theorem State.writeRegs_st (s : State) (bytes : List Byte) : (s.writeRegs bytes).st = s.st := rfl
@[simp] theorem State.writeRegs_disp (s : State) (bytes : List Byte) : (s.writeRegs bytes).disp = s.disp := rfl
@[simp] theorem State.writeRegs_keys (s : State) (bytes : List Byte) : (s.writeRegs bytes).keys = s.keys := rfl
@[simp] theorem State.writeRegs_inputs (s : State) (bytes : List Byte) : (s.writeRegs bytes).inputs = s.inputs := rfl
@[simp] theorem State.writeRegs_rndCount (s : State) (bytes : List Byte) : (s.writeRegs bytes).rndCount = s.rndCount := rfl
@[simp] theorem State.writeRegs_config (s : State) (bytes : List Byte) : (s.writeRegs bytes).config = s.config := rfl

/-! ### timerTick -/

@[simp] theorem State.timerTick_mem (s : State) : s.timerTick.mem = s.mem := rfl
@[simp] theorem State.timerTick_v (s : State) : s.timerTick.v = s.v := rfl
@[simp] theorem State.timerTick_i (s : State) : s.timerTick.i = s.i := rfl
@[simp] theorem State.timerTick_pc (s : State) : s.timerTick.pc = s.pc := rfl
@[simp] theorem State.timerTick_loaded (s : State) : s.timerTick.loaded = s.loaded := rfl
@[simp] theorem State.timerTick_sp (s : State) : s.timerTick.sp = s.sp := rfl
@[simp] theorem State.timerTick_stack (s : State) : s.timerTick.stack = s.stack := rfl
@[simp] theorem State.timerTick_dt (s : State) : s.timerTick.dt = countDown s.dt := rfl
@[simp] theorem State.timerTick_st (s : State) : s.timerTick.st = countDown s.st := rfl
@[simp] theorem State.timerTick_disp (s : State) : s.timerTick.disp = s.disp := rfl
@[simp] theorem State.timerTick_keys (s : State) : s.timerTick.keys = s.keys := rfl
@[simp] theorem State.timerTick_inputs (s : State) : s.timerTick.inputs = s.inputs := rfl
@[simp] theorem State.timerTick_rndCount (s : State) : s.timerTick.rndCount = s.rndCount := rfl
@[simp] theorem State.timerTick_config (s : State) : s.timerTick.config = s.config := rfl
@[simp] theorem State.timerTick_readV (s : State) (y : Reg) : s.timerTick.readV y = s.readV y := rfl

/-! ### setKey -/

@[simp] theorem State.setKey_mem (s : State) (k : BitVec 4) (p : Bool) : (s.setKey k p).mem = s.mem := rfl
@[simp] theorem State.setKey_v (s : State) (k : BitVec 4) (p : Bool) : (s.setKey k p).v = s.v := rfl
@[simp] theorem State.setKey_i (s : State) (k : BitVec 4) (p : Bool) : (s.setKey k p).i = s.i := rfl
@[simp] theorem State.setKey_pc (s : State) (k : BitVec 4) (p : Bool) : (s.setKey k p).pc = s.pc := rfl
@[simp] theorem State.setKey_loaded (s : State) (k : BitVec 4) (p : Bool) : (s.setKey k p).loaded = s.loaded := rfl
@[simp] theorem State.setKey_sp (s : State) (k : BitVec 4) (p : Bool) : (s.setKey k p).sp = s.sp := rfl
@[simp] theorem State.setKey_stack (s : State) (k : BitVec 4) (p : Bool) : (s.setKey k p).stack = s.stack := rfl
@[simp] theorem State.setKey_dt (s : State) (k : BitVec 4) (p : Bool) : (s.setKey k p).dt = s.dt := rfl
@[simp] theorem State.setKey_st (s : State) (k : BitVec 4) (p : Bool) : (s.setKey k p).st = s.st := rfl
@[simp] theorem State.setKey_disp (s : State) (k : BitVec 4) (p : Bool) : (s.setKey k p).disp = s.disp := rfl
@[simp] theorem State.setKey_keys (s : State) (k : BitVec 4) (p : Bool) : (s.setKey k p).keys = s.keys.set k.toNat p k.isLt := rfl
@[simp] theorem State.setKey_inputs (s : State) (k : BitVec 4) (p : Bool) : (s.setKey k p).inputs = s.inputs := rfl
@[simp] theorem State.setKey_rndCount (s : State) (k : BitVec 4) (p : Bool) : (s.setKey k p).rndCount = s.rndCount := rfl
@[simp] theorem State.setKey_config (s : State) (k : BitVec 4) (p : Bool) : (s.setKey k p).config = s.config := rfl
@[simp] theorem State.setKey_readV (s : State) (k : BitVec 4) (p : Bool) (y : Reg) : (s.setKey k p).readV y = s.readV y := rfl

/-! ### setI -/

@[simp] theorem State.setI_mem (s : State) (w : Word) : (s.setI w).mem = s.mem := rfl
@[simp] theorem State.setI_v (s : State) (w : Word) : (s.setI w).v = s.v := rfl
@[simp] theorem State.setI_i (s : State) (w : Word) : (s.setI w).i = w := rfl
@[simp] theorem State.setI_pc (s : State) (w : Word) : (s.setI w).pc = s.pc := rfl
@[simp] theorem State.setI_loaded (s : State) (w : Word) : (s.setI w).loaded = s.loaded := rfl
@[simp] theorem State.setI_sp (s : State) (w : Word) : (s.setI w).sp = s.sp := rfl
@[simp] theorem State.setI_stack (s : State) (w : Word) : (s.setI w).stack = s.stack := rfl
@[simp] theorem State.setI_dt (s : State) (w : Word) : (s.setI w).dt = s.dt := rfl
@[simp] theorem State.setI_st (s : State) (w : Word) : (s.setI w).st = s.st := rfl
@[simp] theorem State.setI_disp (s : State) (w : Word) : (s.setI w).disp = s.disp := rfl
@[simp] theorem State.setI_keys (s : State) (w : Word) : (s.setI w).keys = s.keys := rfl
@[simp] theorem State.setI_inputs (s : State) (w : Word) : (s.setI w).inputs = s.inputs := rfl
@[simp] theorem State.setI_rndCount (s : State) (w : Word) : (s.setI w).rndCount = s.rndCount := rfl
@[simp] theorem State.setI_config (s : State) (w : Word) : (s.setI w).config = s.config := rfl
@[simp] theorem State.setI_readV (s : State) (w : Word) (y : Reg) : (s.setI w).readV y = s.readV y := rfl

/-! ### setDt -/

@[simp] theorem State.setDt_mem (s : State) (b : Byte) : (s.setDt b).mem = s.mem := rfl
@[simp] theorem State.setDt_v (s : State) (b : Byte) : (s.setDt b).v = s.v := rfl
@[simp] theorem State.setDt_i (s : State) (b : Byte) : (s.setDt b).i = s.i := rfl
@[simp] theorem State.setDt_pc (s : State) (b : Byte) : (s.setDt b).pc = s.pc := rfl
@[simp] theorem State.setDt_loaded (s : State) (b : Byte) : (s.setDt b).loaded = s.loaded := rfl
@[simp] theorem State.setDt_sp (s : State) (b : Byte) : (s.setDt b).sp = s.sp := rfl
@[simp] theorem State.setDt_stack (s : State) (b : Byte) : (s.setDt b).stack = s.stack := rfl
@[simp] theorem State.setDt_dt (s : State) (b : Byte) : (s.setDt b).dt = b := rfl
@[simp] theorem State.setDt_st (s : State) (b : Byte) : (s.setDt b).st = s.st := rfl
@[simp] theorem State.setDt_disp (s : State) (b : Byte) : (s.setDt b).disp = s.disp := rfl
@[simp] theorem State.setDt_keys (s : State) (b : Byte) : (s.setDt b).keys = s.keys := rfl
@[simp] theorem State.setDt_inputs (s : State) (b : Byte) : (s.setDt b).inputs = s.inputs := rfl
@[simp] theorem State.setDt_rndCount (s : State) (b : Byte) : (s.setDt b).rndCount = s.rndCount := rfl
@[simp] theorem State.setDt_config (s : State) (b : Byte) : (s.setDt b).config = s.config := rfl
@[simp] theorem State.setDt_readV (s : State) (b : Byte) (y : Reg) : (s.setDt b).readV y = s.readV y := rfl

/-! ### setSt -/

@[simp] theorem State.setSt_mem (s : State) (b : Byte) : (s.setSt b).mem = s.mem := rfl
@[simp] theorem State.setSt_v (s : State) (b : Byte) : (s.setSt b).v = s.v := rfl
@[simp] theorem State.setSt_i (s : State) (b : Byte) : (s.setSt b).i = s.i := rfl
@[simp] theorem State.setSt_pc (s : State) (b : Byte) : (s.setSt b).pc = s.pc := rfl
@[simp] theorem State.setSt_loaded (s : State) (b : Byte) : (s.setSt b).loaded = s.loaded := rfl
@[simp] theorem State.setSt_sp (s : State) (b : Byte) : (s.setSt b).sp = s.sp := rfl
@[simp] theorem State.setSt_stack (s : State) (b : Byte) : (s.setSt b).stack = s.stack := rfl
@[simp] theorem State.setSt_dt (s : State) (b : Byte) : (s.setSt b).dt = s.dt := rfl
@[simp] theorem State.setSt_st (s : State) (b : Byte) : (s.setSt b).st = b := rfl
@[simp] theorem State.setSt_disp (s : State) (b : Byte) : (s.setSt b).disp = s.disp := rfl
@[simp] theorem State.setSt_keys (s : State) (b : Byte) : (s.setSt b).keys = s.keys := rfl
@[simp] theorem State.setSt_inputs (s : State) (b : Byte) : (s.setSt b).inputs = s.inputs := rfl
@[simp] theorem State.setSt_rndCount (s : State) (b : Byte) : (s.setSt b).rndCount = s.rndCount := rfl
@[simp] theorem State.setSt_config (s : State) (b : Byte) : (s.setSt b).config = s.config := rfl
@[simp] theorem State.setSt_readV (s : State) (b : Byte) (y : Reg) : (s.setSt b).readV y = s.readV y := rfl

/-! ### setDisp -/

@[simp] theorem State.setDisp_mem (s : State) (d : Display) : (s.setDisp d).mem = s.mem := rfl
@[simp] theorem State.setDisp_v (s : State) (d : Display) : (s.setDisp d).v = s.v := rfl
@[simp] theorem State.setDisp_i (s : State) (d : Display) : (s.setDisp d).i = s.i := rfl
@[simp] theorem State.setDisp_pc (s : State) (d : Display) : (s.setDisp d).pc = s.pc := rfl
@[simp] theorem State.setDisp_loaded (s : State) (d : Display) : (s.setDisp d).loaded = s.loaded := rfl
@[simp] theorem State.setDisp_sp (s : State) (d : Display) : (s.setDisp d).sp = s.sp := rfl
@[simp] theorem State.setDisp_stack (s : State) (d : Display) : (s.setDisp d).stack = s.stack := rfl
@[simp] theorem State.setDisp_dt (s : State) (d : Display) : (s.setDisp d).dt = s.dt := rfl
@[simp] theorem State.setDisp_st (s : State) (d : Display) : (s.setDisp d).st = s.st := rfl
@[simp] theorem State.setDisp_disp (s : State) (d : Display) : (s.setDisp d).disp = d := rfl
@[simp] theorem State.setDisp_keys (s : State) (d : Display) : (s.setDisp d).keys = s.keys := rfl
@[simp] theorem State.setDisp_inputs (s : State) (d : Display) : (s.setDisp d).inputs = s.inputs := rfl
@[simp] theorem State.setDisp_rndCount (s : State) (d : Display) : (s.setDisp d).rndCount = s.rndCount := rfl
@[simp] theorem State.setDisp_config (s : State) (d : Display) : (s.setDisp d).config = s.config := rfl
@[simp] theorem State.setDisp_readV (s : State) (d : Display) (y : Reg) : (s.setDisp d).readV y = s.readV y := rfl

/-! ### countDraw -/

@[simp] theorem State.countDraw_mem (s : State) : s.countDraw.mem = s.mem := rfl
@[simp] theorem State.countDraw_v (s : State) : s.countDraw.v = s.v := rfl
@[simp] theorem State.countDraw_i (s : State) : s.countDraw.i = s.i := rfl
@[simp] theorem State.countDraw_pc (s : State) : s.countDraw.pc = s.pc := rfl
@[simp] theorem State.countDraw_loaded (s : State) : s.countDraw.loaded = s.loaded := rfl
@[simp] theorem State.countDraw_sp (s : State) : s.countDraw.sp = s.sp := rfl
@[simp] theorem State.countDraw_stack (s : State) : s.countDraw.stack = s.stack := rfl
@[simp] theorem State.countDraw_dt (s : State) : s.countDraw.dt = s.dt := rfl
@[simp] theorem State.countDraw_st (s : State) : s.countDraw.st = s.st := rfl
@[simp] theorem State.countDraw_disp (s : State) : s.countDraw.disp = s.disp := rfl
@[simp] theorem State.countDraw_keys (s : State) : s.countDraw.keys = s.keys := rfl
@[simp] theorem State.countDraw_inputs (s : State) : s.countDraw.inputs = s.inputs := rfl
@[simp] theorem State.countDraw_rndCount (s : State) : s.countDraw.rndCount = s.rndCount + 1 := rfl
@[simp] theorem State.countDraw_config (s : State) : s.countDraw.config = s.config := rfl
@[simp] theorem State.countDraw_readV (s : State) (y : Reg) : s.countDraw.readV y = s.readV y := rfl

/-! ### setStack -/

@[simp] theorem State.setStack_mem (s : State) (n : Fin 17) (k : Vector Word 16) : (s.setStack n k).mem = s.mem := rfl
@[simp] theorem State.setStack_v (s : State) (n : Fin 17) (k : Vector Word 16) : (s.setStack n k).v = s.v := rfl
@[simp] theorem State.setStack_i (s : State) (n : Fin 17) (k : Vector Word 16) : (s.setStack n k).i = s.i := rfl
@[simp] theorem State.setStack_pc (s : State) (n : Fin 17) (k : Vector Word 16) : (s.setStack n k).pc = s.pc := rfl
@[simp] theorem State.setStack_loaded (s : State) (n : Fin 17) (k : Vector Word 16) : (s.setStack n k).loaded = s.loaded := rfl
@[simp] theorem State.setStack_sp (s : State) (n : Fin 17) (k : Vector Word 16) : (s.setStack n k).sp = n := rfl
@[simp] theorem State.setStack_stack (s : State) (n : Fin 17) (k : Vector Word 16) : (s.setStack n k).stack = k := rfl
@[simp] theorem State.setStack_dt (s : State) (n : Fin 17) (k : Vector Word 16) : (s.setStack n k).dt = s.dt := rfl
@[simp] theorem State.setStack_st (s : State) (n : Fin 17) (k : Vector Word 16) : (s.setStack n k).st = s.st := rfl
@[simp] theorem State.setStack_disp (s : State) (n : Fin 17) (k : Vector Word 16) : (s.setStack n k).disp = s.disp := rfl
@[simp] theorem State.setStack_keys (s : State) (n : Fin 17) (k : Vector Word 16) : (s.setStack n k).keys = s.keys := rfl
@[simp] theorem State.setStack_inputs (s : State) (n : Fin 17) (k : Vector Word 16) : (s.setStack n k).inputs = s.inputs := rfl
@[simp] theorem State.setStack_rndCount (s : State) (n : Fin 17) (k : Vector Word 16) : (s.setStack n k).rndCount = s.rndCount := rfl
@[simp] theorem State.setStack_config (s : State) (n : Fin 17) (k : Vector Word 16) : (s.setStack n k).config = s.config := rfl
@[simp] theorem State.setStack_readV (s : State) (n : Fin 17) (k : Vector Word 16) (y : Reg) : (s.setStack n k).readV y = s.readV y := rfl

/-! ### Reading registers -/

theorem State.readV_congr (s t : State) (h : t.v = s.v) (x : Reg) : t.readV x = s.readV x := by
  simp only [State.readV, h]

/-- A register write changes that register alone (R21, R22). -/
theorem State.readV_writeV (s : State) (x y : Reg) (b : Byte) :
    (s.writeV x b).readV y = if y = x then b else s.readV y := by
  simp only [State.readV, State.writeV, Vector.getElem_set, BitVec.toNat_inj, eq_comm (a := x)]

@[simp] theorem State.readV_writeV_same (s : State) (x : Reg) (b : Byte) : (s.writeV x b).readV x = b := by
  simp [State.readV_writeV]

theorem State.readV_writeV_of_ne (s : State) {x y : Reg} (b : Byte) (h : y ≠ x) :
    (s.writeV x b).readV y = s.readV y := by
  simp [State.readV_writeV, h]

/-- The flag stands after a result and a flag are written, whatever the destination is (R131). -/
@[simp] theorem State.readV_writeVFlag_flag (s : State) (x : Reg) (b flag : Byte) :
    (s.writeVFlag x b flag).readV flagReg = flag := by
  simp [State.writeVFlag]

theorem State.readV_writeVFlag (s : State) (x y : Reg) (b flag : Byte) (hy : y ≠ flagReg) :
    (s.writeVFlag x b flag).readV y = if y = x then b else s.readV y := by
  simp [State.writeVFlag, State.readV_writeV, hy]

/-- A block of bytes goes to the registers below its length, and the others are unchanged (R188). -/
theorem State.readV_writeRegs (s : State) (bytes : List Byte) (x : Reg) :
    (s.writeRegs bytes).readV x = (bytes[x.toNat]?).getD (s.readV x) := by
  simp [State.readV, State.writeRegs]

/-- The registers stored by LD [I], Vx, one by one (R187). -/
theorem State.regsUpTo_getElem? (s : State) (x : Reg) (k : Nat) :
    (s.regsUpTo x)[k]? = if h : k ≤ x.toNat then some (s.readV (BitVec.ofNatLT k (by omega))) else none := by
  have hx := x.isLt
  by_cases h : k ≤ x.toNat
  · have hk : k < 16 := by omega
    simp [State.regsUpTo, State.readV, h, hk]
  · simp [State.regsUpTo, h]

theorem State.regsUpTo_length (s : State) (x : Reg) : (s.regsUpTo x).length = x.toNat + 1 := by
  have hx := x.isLt
  simp [State.regsUpTo]
  omega

end Sys2Proof.Machine
end

