-- ==== Sys2Proof/Laws/Display.lean ====
section
/-!
SUPPORT. What drawing can do (spec/43_display.md R153, R154): a covered pixel is inverted, every other pixel is as before,
and there is a collision exactly where a covered pixel was lit.
-/

namespace Sys2Proof.Machine

open Sys2Proof

theorem Display.pixel_setPixel (d : Display) (x px : Fin 64) (y py : Fin 32) (b : Bool) :
    (d.setPixel x y b).pixel px py = if px = x ∧ py = y then b else d.pixel px py := by
  simp only [Display.pixel, Display.setPixel, Fin.getElem_fin, Vector.getElem_set, Fin.ext_iff]
  by_cases hy : y.val = py.val
  · by_cases hx : x.val = px.val
    · simp [hx, hy]
    · simp [hx, hy, Ne.symm hx]
  · simp [hy, Ne.symm hy]

@[simp] theorem Display.pixel_clear (px : Fin 64) (py : Fin 32) : Display.clear.pixel px py = false := by
  simp [Display.pixel, Display.clear]

theorem Display.ext_pixel (d e : Display) (h : ∀ px py, d.pixel px py = e.pixel px py) : d = e := by
  refine Vector.ext fun y hy => Vector.ext fun x hx => ?_
  exact h ⟨x, hx⟩ ⟨y, hy⟩

/-- Pixels and collision of a drawing, told from a set of covered pixels. -/
structure Drawn (cv cv' : Canvas) (covered : Fin 64 → Fin 32 → Prop) : Prop where
  inverted : ∀ px py, covered px py → cv'.disp.pixel px py = !cv.disp.pixel px py
  unchanged : ∀ px py, ¬covered px py → cv'.disp.pixel px py = cv.disp.pixel px py
  collision : cv'.collision = true ↔
    cv.collision = true ∨ ∃ px py, covered px py ∧ cv.disp.pixel px py = true

theorem drawn_none (cv : Canvas) {covered : Fin 64 → Fin 32 → Prop} (h : ∀ px py, ¬covered px py) :
    Drawn cv cv covered :=
  ⟨fun px py hc => absurd hc (h px py), fun _ _ _ => rfl, by simp [h]⟩

theorem drawn_flip (cv : Canvas) (x : Fin 64) (y : Fin 32) : Drawn cv (cv.flip x y) fun px py => px = x ∧ py = y := by
  refine ⟨fun px py h => ?_, fun px py h => ?_, ?_⟩
  · simp [Canvas.flip, Display.pixel_setPixel, h]
  · simp [Canvas.flip, Display.pixel_setPixel, h]
  · simp [Canvas.flip]

/-- Two drawings whose covered pixels do not meet make one drawing of both. -/
theorem drawn_trans {a b c : Canvas} {p q : Fin 64 → Fin 32 → Prop} (hab : Drawn a b p) (hbc : Drawn b c q)
    (disjoint : ∀ px py, p px py → ¬q px py) : Drawn a c fun px py => p px py ∨ q px py := by
  refine ⟨fun px py h => ?_, fun px py h => ?_, ?_⟩
  · rcases h with h | h
    · rw [hbc.unchanged _ _ (disjoint _ _ h), hab.inverted _ _ h]
    · rw [hbc.inverted _ _ h, hab.unchanged _ _ fun hp => disjoint _ _ hp h]
  · rw [hbc.unchanged _ _ fun hq => h (.inr hq), hab.unchanged _ _ fun hp => h (.inl hp)]
  · rw [hbc.collision, hab.collision]
    constructor
    · rintro ((h | ⟨px, py, hp, hl⟩) | ⟨px, py, hq, hl⟩)
      · exact .inl h
      · exact .inr ⟨px, py, .inl hp, hl⟩
      · exact .inr ⟨px, py, .inr hq, by rwa [hab.unchanged _ _ fun hp => disjoint _ _ hp hq] at hl⟩
    · rintro (h | ⟨px, py, hp | hq, hl⟩)
      · exact .inl (.inl h)
      · exact .inl (.inr ⟨px, py, hp, hl⟩)
      · exact .inr ⟨px, py, hq, by rwa [hab.unchanged _ _ fun hp => disjoint _ _ hp hq]⟩

theorem Drawn.congr {a b : Canvas} {p q : Fin 64 → Fin 32 → Prop} (h : Drawn a b p) (hpq : ∀ px py, p px py ↔ q px py) :
    Drawn a b q := by
  have : p = q := funext fun px => funext fun py => propext (hpq px py)
  exact this ▸ h

/-- The pixels the first `n` columns of one sprite row cover. -/
def rowCovers (x y : Nat) (row : Byte) (n : Nat) (px : Fin 64) (py : Fin 32) : Prop :=
  ∃ k < n, row.getLsbD (7 - k) = true ∧ px = wrapColumn (x + k) ∧ py = wrapRow y

/-- The pixels the sprite covers: bit 7 - k of row r at column x + k and row y + r, both wrapped (R153, R154). -/
def spriteCovers (x y : Nat) (rows : List Byte) (px : Fin 64) (py : Fin 32) : Prop :=
  ∃ r k row, k < 8 ∧ rows[r]? = some row ∧ row.getLsbD (7 - k) = true ∧
    px = wrapColumn (x + k) ∧ py = wrapRow (y + r)

theorem wrapColumn_inj {x j k : Nat} (hj : j < 64) (hk : k < 64) (h : wrapColumn (x + j) = wrapColumn (x + k)) : j = k := by
  simp only [wrapColumn, Fin.mk.injEq] at h
  omega

theorem wrapRow_inj {y j k : Nat} (hj : j < 32) (hk : k < 32) (h : wrapRow (y + j) = wrapRow (y + k)) : j = k := by
  simp only [wrapRow, Fin.mk.injEq] at h
  omega

theorem drawn_drawColumns (cv : Canvas) (x y : Nat) (row : Byte) (n : Nat) (hn : n ≤ 8) :
    Drawn cv (cv.drawColumns x y row n) (rowCovers x y row n) := by
  induction n with
  | zero => exact drawn_none cv fun px py ⟨k, hk, _⟩ => absurd hk (Nat.not_lt_zero k)
  | succ n ih =>
    have ih := ih (by omega)
    simp only [Canvas.drawColumns]
    split_ifs with hbit
    · refine (drawn_trans ih (drawn_flip _ _ _) ?_).congr fun px py => ?_
      · rintro px py ⟨k, hk, -, hx, -⟩ ⟨hx', -⟩
        have := wrapColumn_inj (by omega) (by omega) (hx ▸ hx')
        omega
      · constructor
        · rintro (⟨k, hk, h⟩ | ⟨hx, hy⟩)
          · exact ⟨k, by omega, h⟩
          · exact ⟨n, by omega, hbit, hx, hy⟩
        · rintro ⟨k, hk, hb, hx, hy⟩
          rcases Nat.lt_succ_iff_lt_or_eq.1 hk with hk | rfl
          · exact .inl ⟨k, hk, hb, hx, hy⟩
          · exact .inr ⟨hx, hy⟩
    · refine ih.congr fun px py => ⟨fun ⟨k, hk, h⟩ => ⟨k, by omega, h⟩, fun ⟨k, hk, hb, h⟩ => ⟨k, ?_, hb, h⟩⟩
      rcases Nat.lt_succ_iff_lt_or_eq.1 hk with hk | rfl
      · exact hk
      · exact absurd hb hbit

/-- `DispDraw` (R153), for a sprite of at most 32 rows: the pixels it covers are inverted, the others unchanged, and the
collision says whether a covered pixel was lit. -/
theorem drawn_drawRows (cv : Canvas) (x y : Nat) (rows : List Byte) (h : rows.length ≤ 32) :
    Drawn cv (cv.drawRows x y rows) (spriteCovers x y rows) := by
  induction rows generalizing cv y with
  | nil => exact drawn_none cv fun px py ⟨r, k, row, _, hr, _⟩ => by simp at hr
  | cons row rest ih =>
    simp only [List.length_cons] at h
    refine (drawn_trans (drawn_drawColumns cv x y row 8 le_rfl) (ih _ (y + 1) (by omega)) ?_).congr fun px py => ?_
    · rintro px py ⟨k, -, -, -, hy⟩ ⟨r, k', row', -, hr, -, -, hy'⟩
      have hr := (List.getElem?_eq_some_iff.1 hr).1
      have := wrapRow_inj (y := y) (j := 0) (k := 1 + r) (by omega) (by omega)
        (by rw [Nat.add_zero, ← hy, hy', Nat.add_assoc])
      omega
    · constructor
      · rintro (⟨k, hk, hb, hx, hy⟩ | ⟨r, k, row', hk, hr, hb, hx, hy⟩)
        · exact ⟨0, k, row, hk, rfl, hb, hx, hy⟩
        · exact ⟨r + 1, k, row', hk, by simpa using hr, hb, hx, by rw [hy]; congr 1; omega⟩
      · rintro ⟨r, k, row', hk, hr, hb, hx, hy⟩
        cases r with
        | zero =>
          obtain rfl : row = row' := by simpa using hr
          exact .inl ⟨k, hk, hb, hx, hy⟩
        | succ r =>
          refine .inr ⟨r, k, row', hk, by simpa using hr, hb, hx, ?_⟩
          rw [hy]
          congr 1
          omega

/-- What a draw from the state does to the display and the collision. -/
theorem State.drawn_draw (s : State) (x y : Nat) (rows : List Byte) (h : rows.length ≤ 32) :
    Drawn (Canvas.mk s.disp false) (s.draw x y rows) (spriteCovers x y rows) :=
  drawn_drawRows _ x y rows h

end Sys2Proof.Machine
end

