-- ==== Sys2Proof/Laws/Encoding.lean ====
section
/-!
SUPPORT. The fields of a word put together from its fields (spec/30_encoding.md R71).
-/

namespace Sys2Proof

@[simp] theorem fieldF_wordFXYN (f : BitVec 4) (x y : Reg) (n : Nibble) : fieldF (wordFXYN f x y n) = f := by
  apply BitVec.eq_of_getLsbD_eq
  intro k hk
  simp only [fieldF, wordFXYN, BitVec.getLsbD_extractLsb', BitVec.getLsbD_append]
  interval_cases k <;> simp
@[simp] theorem fieldX_wordFXYN (f : BitVec 4) (x y : Reg) (n : Nibble) : fieldX (wordFXYN f x y n) = x := by
  apply BitVec.eq_of_getLsbD_eq
  intro k hk
  simp only [fieldX, wordFXYN, BitVec.getLsbD_extractLsb', BitVec.getLsbD_append]
  interval_cases k <;> simp
@[simp] theorem fieldY_wordFXYN (f : BitVec 4) (x y : Reg) (n : Nibble) : fieldY (wordFXYN f x y n) = y := by
  apply BitVec.eq_of_getLsbD_eq
  intro k hk
  simp only [fieldY, wordFXYN, BitVec.getLsbD_extractLsb', BitVec.getLsbD_append]
  interval_cases k <;> simp
@[simp] theorem fieldN_wordFXYN (f : BitVec 4) (x y : Reg) (n : Nibble) : fieldN (wordFXYN f x y n) = n := by
  apply BitVec.eq_of_getLsbD_eq
  intro k hk
  simp only [fieldN, wordFXYN, BitVec.getLsbD_extractLsb', BitVec.getLsbD_append]
  interval_cases k <;> simp

@[simp] theorem fieldF_wordFXNN (f : BitVec 4) (x : Reg) (nn : Byte) : fieldF (wordFXNN f x nn) = f := by
  apply BitVec.eq_of_getLsbD_eq
  intro k hk
  simp only [fieldF, wordFXNN, BitVec.getLsbD_extractLsb', BitVec.getLsbD_append]
  interval_cases k <;> simp
@[simp] theorem fieldX_wordFXNN (f : BitVec 4) (x : Reg) (nn : Byte) : fieldX (wordFXNN f x nn) = x := by
  apply BitVec.eq_of_getLsbD_eq
  intro k hk
  simp only [fieldX, wordFXNN, BitVec.getLsbD_extractLsb', BitVec.getLsbD_append]
  interval_cases k <;> simp
@[simp] theorem fieldNN_wordFXNN (f : BitVec 4) (x : Reg) (nn : Byte) : fieldNN (wordFXNN f x nn) = nn := by
  apply BitVec.eq_of_getLsbD_eq
  intro k hk
  simp only [fieldNN, wordFXNN, BitVec.getLsbD_extractLsb', BitVec.getLsbD_append]
  interval_cases k <;> simp

@[simp] theorem fieldF_wordFNNN (f : BitVec 4) (nnn : Addr) : fieldF (wordFNNN f nnn) = f := by
  apply BitVec.eq_of_getLsbD_eq
  intro k hk
  simp only [fieldF, wordFNNN, BitVec.getLsbD_extractLsb', BitVec.getLsbD_append]
  interval_cases k <;> simp
@[simp] theorem fieldNNN_wordFNNN (f : BitVec 4) (nnn : Addr) : fieldNNN (wordFNNN f nnn) = nnn := by
  apply BitVec.eq_of_getLsbD_eq
  intro k hk
  simp only [fieldNNN, wordFNNN, BitVec.getLsbD_extractLsb', BitVec.getLsbD_append]
  interval_cases k <;> simp

/-- The X of an address field is its top nibble, which the word holds where X stands (R71, R107). -/
@[simp] theorem fieldX_wordFNNN (f : BitVec 4) (nnn : Addr) : fieldX (wordFNNN f nnn) = regOfAddr nnn := by
  apply BitVec.eq_of_getLsbD_eq
  intro k hk
  simp only [fieldX, wordFNNN, regOfAddr, BitVec.getLsbD_extractLsb', BitVec.getLsbD_append]
  interval_cases k <;> simp

/-- The two bytes of a word make the word again (R55). -/
theorem wordOfBytes_bytes (w : Word) : wordOfBytes (w.extractLsb' 8 8) (w.extractLsb' 0 8) = w := by
  apply BitVec.eq_of_getLsbD_eq
  intro k hk
  simp only [wordOfBytes, BitVec.getLsbD_extractLsb', BitVec.getLsbD_append]
  interval_cases k <;> simp

theorem decode_bytesOfWord (w : Word) (rest : List Byte) :
    decode (bytesOfWord w ++ rest) = (decodeWord w).map fun i => (i, rest) := by
  simp only [bytesOfWord, List.cons_append, List.nil_append, decode, wordOfBytes_bytes]
  cases decodeWord w <;> rfl

end Sys2Proof
end

