-- ==== Sys2Proof/Laws/Memory.lean ====
section
/-!
SUPPORT. What every memory operation can do: it keeps the canonical form, a read after a write, and that equal memories
are equal data.
-/

namespace Sys2Proof.Machine

open Sys2Proof

@[simp] theorem Memory.read_nil (a : Nat) : Memory.read [] a = Memory.unlisted := rfl

/-- An address below every listed one reads as unlisted. -/
theorem Memory.read_of_lt (m : Memory) (a : Nat) (h : ∀ p ∈ m, a < p.1) : m.read a = Memory.unlisted := by
  induction m with
  | nil => rfl
  | cons p rest ih =>
    obtain ⟨k, c⟩ := p
    have hk : a < k := h (k, c) (by simp)
    simp only [Memory.read, show ¬k = a by omega, if_false]
    exact ih fun q hq => h q (by simp [hq])

theorem Memory.wf_cons {k : Nat} {c : Byte} {rest : Memory} :
    Memory.wf ((k, c) :: rest) ↔
      (∀ p ∈ rest, k < p.1) ∧ k < memSize ∧ c ≠ Memory.unlisted ∧ Memory.wf rest := by
  simp only [Memory.wf, List.pairwise_cons, List.forall_mem_cons]
  tauto

/-- Every entry of a written memory is the new one or an old one. -/
theorem Memory.mem_write {m : Memory} {a : Nat} {b : Byte} {p : Host.Cell} (h : p ∈ m.write a b) :
    p ∈ m ∨ (p = (a, b) ∧ b ≠ Memory.unlisted) := by
  induction m with
  | nil =>
    simp only [Memory.write] at h
    split at h <;> simp_all
  | cons q rest ih =>
    obtain ⟨k, c⟩ := q
    simp only [Memory.write] at h
    split_ifs at h with h1 h2 h3 h4
    · exact .inl h
    · rcases List.mem_cons.1 h with h | h
      · exact .inr ⟨h, h2⟩
      · exact .inl h
    · exact .inl (List.mem_cons_of_mem _ h)
    · rcases List.mem_cons.1 h with h | h
      · exact .inr ⟨h, h4⟩
      · exact .inl (List.mem_cons_of_mem _ h)
    · rcases List.mem_cons.1 h with h | h
      · exact .inl (by simp [h])
      · rcases ih h with h | h
        · exact .inl (List.mem_cons_of_mem _ h)
        · exact .inr h

/-- A write inside the address space keeps the canonical form. -/
theorem Memory.wf_write {m : Memory} (hm : m.wf) {a : Nat} (ha : a < memSize) (b : Byte) : (m.write a b).wf := by
  induction m with
  | nil =>
    simp only [Memory.write]
    split_ifs with h
    · exact hm
    · simp [Memory.wf, ha, h]
  | cons q rest ih =>
    obtain ⟨k, c⟩ := q
    obtain ⟨h1, h2, h3, h4⟩ := Memory.wf_cons.1 hm
    simp only [Memory.write]
    split_ifs with hlt hb heq hb'
    · exact hm
    · refine Memory.wf_cons.2 ⟨fun p hp => ?_, ha, hb, hm⟩
      rcases List.mem_cons.1 hp with hp | hp
      · simpa [hp] using hlt
      · exact hlt.trans (h1 p hp)
    · exact h4
    · exact Memory.wf_cons.2 ⟨fun p hp => heq ▸ h1 p hp, ha, hb', h4⟩
    · refine Memory.wf_cons.2 ⟨fun p hp => ?_, h2, h3, ih h4⟩
      rcases Memory.mem_write hp with hp | ⟨rfl, -⟩
      · exact h1 p hp
      · show k < a
        omega

/-- A read after a write: the byte written at that address, every other address as before (R51, R52, R64). -/
theorem Memory.read_write {m : Memory} (hm : m.wf) (a : Nat) (b : Byte) (a' : Nat) :
    (m.write a b).read a' = if a' = a then b else m.read a' := by
  induction m with
  | nil =>
    simp only [Memory.write]
    split_ifs with h1 h2 <;> simp_all [Memory.read]
    omega
  | cons q rest ih =>
    obtain ⟨k, c⟩ := q
    obtain ⟨h1, -, -, h4⟩ := Memory.wf_cons.1 hm
    have ih := ih h4
    by_cases ha' : a' = a
    · subst ha'
      simp only [Memory.write, if_true]
      split_ifs with hlt hb heq hb'
      · rw [hb]
        exact Memory.read_of_lt _ _ fun p hp => by
          rcases List.mem_cons.1 hp with hp | hp
          · simpa [hp] using hlt
          · exact hlt.trans (h1 p hp)
      · simp [Memory.read]
      · rw [hb']
        exact Memory.read_of_lt _ _ fun p hp => heq ▸ h1 p hp
      · simp [Memory.read]
      · simp [Memory.read, ih, Ne.symm heq]
    · simp only [Memory.write, ha', if_false]
      split_ifs with hlt hb heq hb'
      · rfl
      · simp [Memory.read, Ne.symm ha']
      · simp [Memory.read, ← heq, Ne.symm ha']
      · simp [Memory.read, ← heq, Ne.symm ha']
      · simp [Memory.read, ih, ha']

/-- Storing a run inside the address space keeps the canonical form. -/
theorem Memory.wf_writeBytes {m : Memory} (hm : m.wf) {a : Nat} {bytes : List Byte}
    (h : a + bytes.length ≤ memSize) : (m.writeBytes a bytes).wf := by
  induction bytes generalizing m a with
  | nil => exact hm
  | cons b rest ih =>
    simp only [List.length_cons] at h
    exact ih (Memory.wf_write hm (by omega) b) (by omega)

/-- What every address reads after a run is stored: the bytes of the run inside it, everything else as before (R57). -/
theorem Memory.read_writeBytes {m : Memory} (hm : m.wf) {a : Nat} {bytes : List Byte}
    (h : a + bytes.length ≤ memSize) (a' : Nat) :
    (m.writeBytes a bytes).read a' = if a ≤ a' then (bytes[a' - a]?).getD (m.read a') else m.read a' := by
  induction bytes generalizing m a with
  | nil => simp [Memory.writeBytes]
  | cons b rest ih =>
    simp only [List.length_cons] at h
    rw [Memory.writeBytes, ih (Memory.wf_write hm (by omega) b) (by omega), Memory.read_write hm]
    rcases lt_trichotomy a a' with hlt | rfl | hlt
    · have : a' - a = (a' - (a + 1)) + 1 := by omega
      simp [this, show a + 1 ≤ a' by omega, show a ≤ a' by omega, show ¬a' = a by omega]
    · rw [if_neg (by omega)]
      simp
    · simp [show ¬a + 1 ≤ a' by omega, show ¬a ≤ a' by omega, show ¬a' = a by omega]

theorem Memory.readBytes_length (m : Memory) (a n : Nat) : (m.readBytes a n).length = n := by
  induction n generalizing a with
  | zero => rfl
  | succ n ih => simp [Memory.readBytes, ih]

/-- The bytes of a run that is read, one by one (R57). -/
theorem Memory.readBytes_getElem? (m : Memory) (a n k : Nat) :
    (m.readBytes a n)[k]? = if k < n then some (m.read (a + k)) else none := by
  induction n generalizing a k with
  | zero => simp [Memory.readBytes]
  | succ n ih =>
    cases k with
    | zero => simp [Memory.readBytes]
    | succ k => simp [Memory.readBytes, ih, Nat.add_right_comm, Nat.add_assoc]

/-- Two memories in canonical form that read the same are the same data. -/
theorem Memory.ext_of_read {m m' : Memory} (hm : m.wf) (hm' : m'.wf) (h : ∀ a, m.read a = m'.read a) : m = m' := by
  induction m generalizing m' with
  | nil =>
    cases m' with
    | nil => rfl
    | cons q rest =>
      obtain ⟨k, c⟩ := q
      have := h k
      simp only [Memory.read, if_true] at this
      exact absurd this.symm (Memory.wf_cons.1 hm').2.2.1
  | cons p rest ih =>
    obtain ⟨k, c⟩ := p
    obtain ⟨h1, h2, h3, h4⟩ := Memory.wf_cons.1 hm
    cases m' with
    | nil =>
      have := h k
      simp only [Memory.read, if_true] at this
      exact absurd this h3
    | cons q rest' =>
      obtain ⟨k', c'⟩ := q
      obtain ⟨h1', h2', h3', h4'⟩ := Memory.wf_cons.1 hm'
      have below : ∀ a, a ≤ k → Memory.read rest a = Memory.unlisted := fun a ha =>
        Memory.read_of_lt _ _ fun p hp => lt_of_le_of_lt ha (h1 p hp)
      have below' : ∀ a, a ≤ k' → Memory.read rest' a = Memory.unlisted := fun a ha =>
        Memory.read_of_lt _ _ fun p hp => lt_of_le_of_lt ha (h1' p hp)
      have hk : k = k' := by
        rcases lt_trichotomy k k' with hlt | heq | hlt
        · have := h k
          simp only [Memory.read, if_true, show ¬k' = k by omega, if_false, below' k (by omega)] at this
          exact absurd this h3
        · exact heq
        · have := h k'
          simp only [Memory.read, if_true, show ¬k = k' by omega, if_false, below k' (by omega)] at this
          exact absurd this.symm h3'
      subst hk
      have hc : c = c' := by simpa [Memory.read] using h k
      subst hc
      rw [ih h4 h4' fun a => ?_]
      have := h a
      simp only [Memory.read] at this
      split_ifs at this with ha
      · rw [below a ha.ge, below' a ha.ge]
      · exact this

/-- What a copy can do (R63). -/
theorem Memory.copy_eq_some {m m' : Memory} {dst : Nat} {bytes : List Byte} :
    m.copy dst bytes = some m' ↔ dst + bytes.length ≤ memSize ∧ m' = m.writeBytes dst bytes := by
  simp only [Memory.copy]
  split_ifs with h
  · simp only [false_iff, not_and]
    omega
  · simp [Nat.le_of_not_lt h, eq_comm]

theorem Memory.copy_eq_none {m : Memory} {dst : Nat} {bytes : List Byte} :
    m.copy dst bytes = none ↔ memSize < dst + bytes.length := by
  simp [Memory.copy]

end Sys2Proof.Machine
end

