-- ==== Sys2Proof/Laws/Operands.lean ====
section
/-!
SUPPORT. What the operand forms and the flags can do: the block check, the keys, the variants, the decimal digits, and the
value of every flag.
-/

namespace Sys2Proof.Machine

open Sys2Proof

/-! ### Memory blocks -/

/-- A block inside memory, or of no bytes, runs (R53). -/
theorem State.withBlock_inside (s : State) {n : Nat} (go : Result) (h : n = 0 ∨ s.i.toNat + n ≤ 0x1000) :
    s.withBlock n go = go := by
  cases n with
  | zero => rfl
  | succ k =>
    exact if_neg (by simp only [State.dataAddr]; omega)

/-- A block that reaches above 0xFFF reports its last address, and nothing else happens (R53). -/
theorem State.withBlock_outside (s : State) {k : Nat} (go : Result) (h : s.i.toNat + k > 0xFFF) :
    s.withBlock (k + 1) go = .fault (.dataOutOfBounds (s.i.toNat + k) s) := by
  exact if_pos h

/-- Everything a block access can answer. -/
theorem State.withBlock_cases (s : State) (n : Nat) (go : Result) :
    (s.withBlock n go = go ∧ (n = 0 ∨ s.i.toNat + n ≤ 0x1000)) ∨
      (0 < n ∧ 0x1000 < s.i.toNat + n ∧ s.withBlock n go = .fault (.dataOutOfBounds (s.i.toNat + (n - 1)) s)) := by
  by_cases h : n = 0 ∨ s.i.toNat + n ≤ 0x1000
  · exact .inl ⟨s.withBlock_inside go h, h⟩
  · obtain ⟨k, rfl⟩ : ∃ k, n = k + 1 := ⟨n - 1, by omega⟩
    exact .inr ⟨by omega, by omega, by simpa using s.withBlock_outside (k := k) go (by omega)⟩

/-- The memory after a block of bytes is stored from I on, address by address. -/
theorem State.read_writeBlock (s : State) (hm : s.mem.wf) {bytes : List Byte}
    (h : s.i.toNat + bytes.length ≤ 0x1000) (a : Nat) :
    (s.writeBlock bytes).mem.read a =
      if s.i.toNat ≤ a then (bytes[a - s.i.toNat]?).getD (s.mem.read a) else s.mem.read a :=
  Memory.read_writeBytes hm h a

theorem State.wf_writeBlock (s : State) (hm : s.mem.wf) {bytes : List Byte}
    (h : s.i.toNat + bytes.length ≤ 0x1000) : (s.writeBlock bytes).mem.wf :=
  Memory.wf_writeBytes hm h

theorem State.readBlock_length (s : State) (n : Nat) : (s.readBlock n).length = n :=
  Memory.readBytes_length _ _ _

theorem State.readBlock_getElem? (s : State) (n k : Nat) :
    (s.readBlock n)[k]? = if k < n then some (s.mem.read (s.i.toNat + k)) else none :=
  Memory.readBytes_getElem? _ _ _ _

/-! ### Keys -/

/-- Everything a key query can answer (R172). -/
theorem State.withKey_cases (s : State) (k : Byte) (go : Bool → Result) :
    (∃ h : k.toNat < 16, s.withKey k go = go s.keys[k.toNat]) ∨
      (¬k.toNat < 16 ∧ s.withKey k go = .fault (.keyIndexOutOfRange k s)) := by
  by_cases h : k.toNat < 16
  · exact .inl ⟨h, by simp [State.withKey, h, State.keyPressed]⟩
  · exact .inr ⟨h, by simp [State.withKey, h, State.raiseKeyIndexOutOfRange]⟩

/-- The lowest pressed key (R184). -/
theorem State.lowestKey_eq_some (s : State) (k : Nat) :
    s.lowestKey = some k ↔ ∃ h : k < 16, s.keys[k] = true ∧ ∀ j (hj : j < k), s.keys[j] = false := by
  simp [State.lowestKey, List.findIdx?_eq_some_iff_getElem]

theorem State.lowestKey_eq_none (s : State) : s.lowestKey = none ↔ ∀ k (h : k < 16), s.keys[k] = false := by
  simp only [State.lowestKey, List.findIdx?_eq_none_iff, Vector.mem_toList_iff]
  constructor
  · intro h k hk
    exact h _ (Vector.getElem_mem hk)
  · intro h b hb
    obtain ⟨k, hk, rfl⟩ := Vector.getElem_of_mem hb
    exact h k hk

/-! ### Zero extension -/

@[simp] theorem zextAddr_toNat (nnn : Addr) : (zextAddr nnn).toNat = nnn.toNat := by
  have := nnn.isLt
  simp [zextAddr]
  omega

@[simp] theorem zextByte_toNat (b : Byte) : (zextByte b).toNat = b.toNat := by
  have := b.isLt
  simp [zextByte]
  omega

/-- The sum of BNNN never wraps (R26, R107). -/
theorem zext_add_toNat (nnn : Addr) (b : Byte) : (zextAddr nnn + zextByte b).toNat = nnn.toNat + b.toNat := by
  have := nnn.isLt
  have := b.isLt
  rw [BitVec.toNat_add, zextAddr_toNat, zextByte_toNat]
  omega

@[simp] theorem State.glyphAddr_toNat (s : State) (d : Nibble) :
    (s.glyphAddr d).toNat = s.config.fontBase.toNat + 5 * d.toNat := by
  have := s.config.fontBase.isLt
  have := d.isLt
  simp only [State.glyphAddr, BitVec.toNat_ofNat]
  omega

/-! ### Flags -/

theorem flagByte_toNat (b : Bool) : (flagByte b).toNat = if b then 1 else 0 := by cases b <;> rfl

/-- The carry of an 8-bit sum (R136). -/
theorem carryFlag_toNat (a b : Byte) : (carryFlag a b).toNat = if a.toNat + b.toNat > 255 then 1 else 0 := by
  have := a.isLt
  have := b.isLt
  simp only [carryFlag, flagByte_toNat, decide_eq_true_eq, gt_iff_lt]
  congr 1
  exact propext (by omega)

theorem greaterFlag_toNat (a b : Byte) : (greaterFlag a b).toNat = if a.toNat > b.toNat then 1 else 0 := by
  simp only [greaterFlag, flagByte_toNat, decide_eq_true_eq]

theorem indexFlag_toNat (i : Word) : (indexFlag i).toNat = if i.toNat > 0xFFF then 1 else 0 := by
  simp only [indexFlag, flagByte_toNat, decide_eq_true_eq]

theorem shiftedOutRight_toNat (b : Byte) : (shiftedOutRight b).toNat = b.toNat % 2 := by
  simp [shiftedOutRight, Nat.and_one_is_mod]

theorem shiftedOutLeft_toNat (b : Byte) : (shiftedOutLeft b).toNat = b.toNat / 128 := by
  have := b.isLt
  simp only [shiftedOutLeft, BitVec.toNat_and, BitVec.toNat_ushiftRight, Nat.shiftRight_eq_div_pow]
  rw [show BitVec.toNat (1 : Byte) = 1 from rfl, Nat.and_one_is_mod]
  omega

end Sys2Proof.Machine
end

