-- ==== Sys2Proof/Laws/Stack.lean ====
section
/-!
SUPPORT. Everything the call stack's two operations can do (spec/10_state.md R29, R30).
-/

namespace Sys2Proof.Machine

open Sys2Proof

/-- A push below capacity stores the word at SP and raises SP by one (R29). -/
theorem State.push_of_lt (s : State) (w : Word) (h : s.sp.val < 16) :
    s.push w = some (s.setStack ⟨s.sp.val + 1, by omega⟩ (s.stack.set s.sp.val w h)) := by
  simp [State.push, h]

/-- A push fails exactly at capacity (R29). -/
theorem State.push_eq_none (s : State) (w : Word) : s.push w = none ↔ s.sp.val = 16 := by
  have := s.sp.isLt
  simp only [State.push]
  split_ifs with h
  · simp
    omega
  · simp
    omega

/-- A pop above depth 0 gives the top entry and lowers SP by one (R30). -/
theorem State.pop_of_pos (s : State) (h : 0 < s.sp.val) :
    s.pop = some (s.stack[s.sp.val - 1]'(by omega), s.setStack ⟨s.sp.val - 1, by omega⟩ s.stack) := by
  simp [State.pop, h]

/-- A pop fails exactly at depth 0 (R30). -/
theorem State.pop_eq_none (s : State) : s.pop = none ↔ s.sp.val = 0 := by
  simp only [State.pop]
  split_ifs with h
  · simp
    omega
  · simp
    omega

end Sys2Proof.Machine
end

