-- ==== Sys2Proof/Laws/Exec.lean ====
section
/-!
SUPPORT. Everything the meanings that check something can answer: RET and CALL, the key skips, the key wait, and the four
instructions that access memory. Every other meaning answers one next state, by rfl.
-/

namespace Sys2Proof.Machine

open Sys2Proof

/-- RET pops, or underflows (R100, R203). -/
theorem execRet_cases (s : State) :
    (∃ h : 0 < s.sp.val, execRet s =
        .next ((s.setStack ⟨s.sp.val - 1, by omega⟩ s.stack).jumpTo (s.stack[s.sp.val - 1]'(by omega)))) ∨
      (s.sp.val = 0 ∧ execRet s = .fault (.stackUnderflow s)) := by
  rcases Nat.eq_zero_or_pos s.sp.val with h | h
  · exact .inr ⟨h, by rw [execRet, s.pop_eq_none.2 h]; rfl⟩
  · exact .inl ⟨h, by rw [execRet, s.pop_of_pos h]⟩

/-- CALL pushes and jumps, or overflows and jumps (R102, R202). -/
theorem execCall_cases (nnn : Addr) (s : State) :
    (∃ h : s.sp.val < 16, execCall nnn s =
        .next ((s.setStack ⟨s.sp.val + 1, by omega⟩ (s.stack.set s.sp.val (s.pc + 2) h)).jumpTo (zextAddr nnn))) ∨
      (s.sp.val = 16 ∧ execCall nnn s = .fault (.stackOverflow (s.jumpTo (zextAddr nnn)))) := by
  have := s.sp.isLt
  rcases Nat.lt_or_ge s.sp.val 16 with h | h
  · exact .inl ⟨h, by rw [execCall, s.push_of_lt _ h]⟩
  · exact .inr ⟨by omega, by rw [execCall, (s.push_eq_none _).2 (by omega)]; rfl⟩

/-- SKP skips by the key's level, or the index is out of range (R170, R172). -/
theorem execSkp_cases (x : Reg) (s : State) :
    (∃ h : (s.readV x).toNat < 16, execSkp x s = .next (s.skipIf s.keys[(s.readV x).toNat])) ∨
      (¬(s.readV x).toNat < 16 ∧ execSkp x s = .fault (.keyIndexOutOfRange (s.readV x) s)) :=
  s.withKey_cases _ _

/-- SKNP skips by the key's level, or the index is out of range (R171, R172). -/
theorem execSknp_cases (x : Reg) (s : State) :
    (∃ h : (s.readV x).toNat < 16, execSknp x s = .next (s.skipIf !s.keys[(s.readV x).toNat])) ∨
      (¬(s.readV x).toNat < 16 ∧ execSknp x s = .fault (.keyIndexOutOfRange (s.readV x) s)) :=
  s.withKey_cases _ _

/-- LD Vx, K takes a key, or changes nothing (R184). -/
theorem execLdVxK_cases (x : Reg) (s : State) :
    (∃ k, s.lowestKey = some k ∧ execLdVxK x s = .next (s.writeV x (BitVec.ofNat 8 k)).advance) ∨
      (s.lowestKey = none ∧ execLdVxK x s = .next s) := by
  cases h : s.lowestKey with
  | none => exact .inr ⟨rfl, by rw [execLdVxK, h]⟩
  | some k => exact .inl ⟨k, rfl, by rw [execLdVxK, h]⟩

/-- DRW draws and sets VF, or a sprite byte is out of bounds (R151). -/
theorem execDrw_cases (x y : Reg) (n : Nibble) (s : State) :
    (∃ cv, cv = s.draw ((s.readV x).toNat % 64) ((s.readV y).toNat % 32) (s.readBlock n.toNat) ∧
        execDrw x y n s = .next ((s.setDisp cv.disp).writeV flagReg (collisionFlag cv.collision)).advance ∧
        (n.toNat = 0 ∨ s.i.toNat + n.toNat ≤ 0x1000)) ∨
      (0 < n.toNat ∧ 0x1000 < s.i.toNat + n.toNat ∧
        execDrw x y n s = .fault (.dataOutOfBounds (s.i.toNat + (n.toNat - 1)) s)) := by
  rcases s.withBlock_cases n.toNat _ with h | h
  · exact .inl ⟨_, rfl, h.1, h.2⟩
  · exact .inr h

/-- LD B stores the digits, or one of their addresses is out of bounds (R186). -/
theorem execLdB_cases (x : Reg) (s : State) :
    (execLdB x s = .next (s.writeBlock (bcdDigits (s.readV x))).advance ∧ s.i.toNat + 3 ≤ 0x1000) ∨
      (0x1000 < s.i.toNat + 3 ∧ execLdB x s = .fault (.dataOutOfBounds (s.i.toNat + 2) s)) := by
  rcases s.withBlock_cases 3 (.next (s.writeBlock (bcdDigits (s.readV x))).advance) with ⟨h, h3⟩ | ⟨-, h⟩
  · exact .inl ⟨h, by omega⟩
  · exact .inr h

/-- LD [I], Vx stores the registers, or one of the addresses is out of bounds (R187). -/
theorem execLdMemVx_cases (x : Reg) (s : State) :
    (execLdMemVx x s = .next (s.writeBlock (s.regsUpTo x)).advance ∧ s.i.toNat + (x.toNat + 1) ≤ 0x1000) ∨
      (0x1000 < s.i.toNat + (x.toNat + 1) ∧ execLdMemVx x s = .fault (.dataOutOfBounds (s.i.toNat + x.toNat) s)) := by
  rcases s.withBlock_cases (x.toNat + 1) (.next (s.writeBlock (s.regsUpTo x)).advance) with ⟨h, hx⟩ | ⟨-, h⟩
  · exact .inl ⟨h, by omega⟩
  · exact .inr h

/-- LD Vx, [I] loads the registers, or one of the addresses is out of bounds (R188). -/
theorem execLdVxMem_cases (x : Reg) (s : State) :
    (execLdVxMem x s = .next (s.writeRegs (s.readBlock (x.toNat + 1))).advance ∧ s.i.toNat + (x.toNat + 1) ≤ 0x1000) ∨
      (0x1000 < s.i.toNat + (x.toNat + 1) ∧ execLdVxMem x s = .fault (.dataOutOfBounds (s.i.toNat + x.toNat) s)) := by
  rcases s.withBlock_cases (x.toNat + 1) (.next (s.writeRegs (s.readBlock (x.toNat + 1))).advance) with ⟨h, hx⟩ | ⟨-, h⟩
  · exact .inl ⟨h, by omega⟩
  · exact .inr h

end Sys2Proof.Machine
end

