-- ==== Sys2Proof/Laws/Inputs.lean ====
section
/-!
SUPPORT. Everything the host's moves can do (spec/60_exceptions.md R212 to R214): timers and keys, nothing else.
-/

namespace Sys2Proof.Machine

open Sys2Proof

/-- A countdown goes down by one and stops at 0 (R212). -/
theorem countDown_toNat (t : Byte) : (countDown t).toNat = t.toNat - 1 := by
  have := t.isLt
  simp only [countDown]
  split_ifs with h
  · rw [BitVec.toNat_sub_of_le (by rw [BitVec.le_def]; exact h)]
    rfl
  · omega

/-- Host moves change DT, ST and KEY at most. -/
theorem State.applyEvents_eq (s : State) (es : List ExternalEvent) :
    ∃ dt st keys, s.applyEvents es = { s with dt := dt, st := st, keys := keys } := by
  induction es generalizing s with
  | nil => exact ⟨s.dt, s.st, s.keys, rfl⟩
  | cons e rest ih =>
    obtain ⟨dt, st, keys, h⟩ := ih (s.applyEvent e)
    refine ⟨dt, st, keys, ?_⟩
    rw [State.applyEvents, h]
    cases e <;> rfl

/-- Moves are applied in order: those of a longer list are those of its beginning, then the last one. -/
theorem State.applyEvents_append (s : State) (es fs : List ExternalEvent) :
    s.applyEvents (es ++ fs) = (s.applyEvents es).applyEvents fs := by
  induction es generalizing s with
  | nil => rfl
  | cons e rest ih => exact ih _

/-- A step takes the first entry of the schedule and applies its moves. -/
theorem State.deliver_of_cons (s : State) {es : List ExternalEvent} {rest : List (List ExternalEvent)}
    (h : s.inputs = es :: rest) : s.deliver = { s with inputs := rest }.applyEvents es := by
  simp [State.deliver, h]

/-- The moves delivered before a step change DT, ST, KEY and the schedule at most. -/
theorem State.deliver_eq (s : State) :
    ∃ dt st keys inputs, s.deliver = { s with dt := dt, st := st, keys := keys, inputs := inputs } := by
  unfold State.deliver
  split
  · exact ⟨s.dt, s.st, s.keys, s.inputs, rfl⟩
  · rename_i es rest _
    obtain ⟨dt, st, keys, h⟩ := State.applyEvents_eq { s with inputs := rest } es
    exact ⟨dt, st, keys, rest, h⟩

@[simp] theorem State.deliver_mem (s : State) : s.deliver.mem = s.mem := by
  obtain ⟨_, _, _, _, h⟩ := s.deliver_eq
  rw [h]
@[simp] theorem State.deliver_v (s : State) : s.deliver.v = s.v := by
  obtain ⟨_, _, _, _, h⟩ := s.deliver_eq
  rw [h]
@[simp] theorem State.deliver_i (s : State) : s.deliver.i = s.i := by
  obtain ⟨_, _, _, _, h⟩ := s.deliver_eq
  rw [h]
@[simp] theorem State.deliver_pc (s : State) : s.deliver.pc = s.pc := by
  obtain ⟨_, _, _, _, h⟩ := s.deliver_eq
  rw [h]
@[simp] theorem State.deliver_loaded (s : State) : s.deliver.loaded = s.loaded := by
  obtain ⟨_, _, _, _, h⟩ := s.deliver_eq
  rw [h]
@[simp] theorem State.deliver_sp (s : State) : s.deliver.sp = s.sp := by
  obtain ⟨_, _, _, _, h⟩ := s.deliver_eq
  rw [h]
@[simp] theorem State.deliver_stack (s : State) : s.deliver.stack = s.stack := by
  obtain ⟨_, _, _, _, h⟩ := s.deliver_eq
  rw [h]
@[simp] theorem State.deliver_disp (s : State) : s.deliver.disp = s.disp := by
  obtain ⟨_, _, _, _, h⟩ := s.deliver_eq
  rw [h]
@[simp] theorem State.deliver_rndCount (s : State) : s.deliver.rndCount = s.rndCount := by
  obtain ⟨_, _, _, _, h⟩ := s.deliver_eq
  rw [h]
@[simp] theorem State.deliver_config (s : State) : s.deliver.config = s.config := by
  obtain ⟨_, _, _, _, h⟩ := s.deliver_eq
  rw [h]

theorem State.deliver_readV (s : State) (x : Reg) : s.deliver.readV x = s.readV x :=
  State.readV_congr _ _ s.deliver_v x

/-- With nothing scheduled, nothing is delivered. -/
theorem State.deliver_of_nil (s : State) (h : s.inputs = []) : s.deliver = s := by
  simp [State.deliver, h]

end Sys2Proof.Machine
end

