-- ==== Sys2Proof/Laws/PerInstr.lean ====
section
/-!
SUPPORT. Per-instruction laws. TableRow: the word an instruction encodes to matches its own row of spec/opcode_table.json,
`(w & mask) = match` (spec/30_encoding.md R70).
-/

namespace Sys2Proof.Laws

open Sys2Proof

/-- The mask of an instruction's row in the opcode table. -/
def TableRow.mask (i : Instr) : Word :=
  match i with
  | .cls | .ret => 0xFFFF
  | .jp _ | .call _ | .seImm _ _ | .sneImm _ _ | .seReg _ _ | .ldImm _ _ | .addImm _ _ | .sneReg _ _
  | .ldI _ | .jpV0 _ _ | .rnd _ _ | .drw _ _ _ => 0xF000
  | .ldReg _ _ | .orReg _ _ | .andReg _ _ | .xorReg _ _ | .addReg _ _ | .sub _ _ | .shr _ _
  | .subn _ _ | .shl _ _ => 0xF00F
  | .skp _ | .sknp _ | .ldVxDt _ | .ldDtVx _ | .ldStVx _ | .addI _ | .ldVxK _ | .ldF _ | .ldB _
  | .ldMemVx _ | .ldVxMem _ => 0xF0FF

/-- The match of an instruction's row in the opcode table. -/
def TableRow.pattern (i : Instr) : Word :=
  match i with
  | .cls => 0x00E0
  | .ret => 0x00EE
  | .jp _ => 0x1000
  | .call _ => 0x2000
  | .seImm _ _ => 0x3000
  | .sneImm _ _ => 0x4000
  | .seReg _ _ => 0x5000
  | .ldImm _ _ => 0x6000
  | .addImm _ _ => 0x7000
  | .ldReg _ _ => 0x8000
  | .orReg _ _ => 0x8001
  | .andReg _ _ => 0x8002
  | .xorReg _ _ => 0x8003
  | .addReg _ _ => 0x8004
  | .sub _ _ => 0x8005
  | .shr _ _ => 0x8006
  | .subn _ _ => 0x8007
  | .shl _ _ => 0x800E
  | .sneReg _ _ => 0x9000
  | .ldI _ => 0xA000
  | .jpV0 _ _ => 0xB000
  | .rnd _ _ => 0xC000
  | .drw _ _ _ => 0xD000
  | .skp _ => 0xE09E
  | .sknp _ => 0xE0A1
  | .ldVxDt _ => 0xF007
  | .ldDtVx _ => 0xF015
  | .ldStVx _ => 0xF018
  | .addI _ => 0xF01E
  | .ldVxK _ => 0xF00A
  | .ldF _ => 0xF029
  | .ldB _ => 0xF033
  | .ldMemVx _ => 0xF055
  | .ldVxMem _ => 0xF065

/-- The word of an instruction matches its row. -/
def TableRow.Statement (i : Instr) : Prop := encode i &&& TableRow.mask i = TableRow.pattern i

/-- A word whose operand field is masked away, told from its family alone (one nibble kept). -/
theorem TableRow.wordFNNN_mask (f : BitVec 4) (nnn : Addr) : wordFNNN f nnn &&& 0xF000 = wordFNNN f 0 := by
  apply BitVec.eq_of_getLsbD_eq
  intro k hk
  simp only [wordFNNN, BitVec.getLsbD_and, BitVec.getLsbD_append]
  interval_cases k <;> simp
theorem TableRow.wordFXNN_mask (f : BitVec 4) (x : Reg) (nn : Byte) : wordFXNN f x nn &&& 0xF000 = wordFNNN f 0 := by
  apply BitVec.eq_of_getLsbD_eq
  intro k hk
  simp only [wordFXNN, wordFNNN, BitVec.getLsbD_and, BitVec.getLsbD_append]
  interval_cases k <;> simp
theorem TableRow.wordFXYN_mask (f : BitVec 4) (x y : Reg) (n : Nibble) :
    wordFXYN f x y n &&& 0xF000 = wordFNNN f 0 := by
  apply BitVec.eq_of_getLsbD_eq
  intro k hk
  simp only [wordFXYN, wordFNNN, BitVec.getLsbD_and, BitVec.getLsbD_append]
  interval_cases k <;> simp
theorem TableRow.wordFXYN_maskN (f : BitVec 4) (x y : Reg) (n : Nibble) :
    wordFXYN f x y n &&& 0xF00F = wordFXYN f 0 0 n := by
  apply BitVec.eq_of_getLsbD_eq
  intro k hk
  simp only [wordFXYN, BitVec.getLsbD_and, BitVec.getLsbD_append]
  interval_cases k <;> simp
theorem TableRow.wordFXNN_maskNN (f : BitVec 4) (x : Reg) (nn : Byte) :
    wordFXNN f x nn &&& 0xF0FF = wordFXNN f 0 nn := by
  apply BitVec.eq_of_getLsbD_eq
  intro k hk
  simp only [wordFXNN, BitVec.getLsbD_and, BitVec.getLsbD_append]
  interval_cases k <;> simp

theorem TableRow.cls : TableRow.Statement .cls := rfl
theorem TableRow.ret : TableRow.Statement .ret := rfl
theorem TableRow.jp (nnn : Addr) : TableRow.Statement (.jp nnn) := (TableRow.wordFNNN_mask _ _).trans rfl
theorem TableRow.call (nnn : Addr) : TableRow.Statement (.call nnn) := (TableRow.wordFNNN_mask _ _).trans rfl
theorem TableRow.seImm (x : Reg) (nn : Byte) : TableRow.Statement (.seImm x nn) := (TableRow.wordFXNN_mask _ _ _).trans rfl
theorem TableRow.sneImm (x : Reg) (nn : Byte) : TableRow.Statement (.sneImm x nn) := (TableRow.wordFXNN_mask _ _ _).trans rfl
theorem TableRow.seReg (x : Reg) (y : Reg) : TableRow.Statement (.seReg x y) := (TableRow.wordFXYN_mask _ _ _ _).trans rfl
theorem TableRow.ldImm (x : Reg) (nn : Byte) : TableRow.Statement (.ldImm x nn) := (TableRow.wordFXNN_mask _ _ _).trans rfl
theorem TableRow.addImm (x : Reg) (nn : Byte) : TableRow.Statement (.addImm x nn) := (TableRow.wordFXNN_mask _ _ _).trans rfl
theorem TableRow.ldReg (x : Reg) (y : Reg) : TableRow.Statement (.ldReg x y) := (TableRow.wordFXYN_maskN _ _ _ _).trans rfl
theorem TableRow.orReg (x : Reg) (y : Reg) : TableRow.Statement (.orReg x y) := (TableRow.wordFXYN_maskN _ _ _ _).trans rfl
theorem TableRow.andReg (x : Reg) (y : Reg) : TableRow.Statement (.andReg x y) := (TableRow.wordFXYN_maskN _ _ _ _).trans rfl
theorem TableRow.xorReg (x : Reg) (y : Reg) : TableRow.Statement (.xorReg x y) := (TableRow.wordFXYN_maskN _ _ _ _).trans rfl
theorem TableRow.addReg (x : Reg) (y : Reg) : TableRow.Statement (.addReg x y) := (TableRow.wordFXYN_maskN _ _ _ _).trans rfl
theorem TableRow.sub (x : Reg) (y : Reg) : TableRow.Statement (.sub x y) := (TableRow.wordFXYN_maskN _ _ _ _).trans rfl
theorem TableRow.shr (x : Reg) (y : Reg) : TableRow.Statement (.shr x y) := (TableRow.wordFXYN_maskN _ _ _ _).trans rfl
theorem TableRow.subn (x : Reg) (y : Reg) : TableRow.Statement (.subn x y) := (TableRow.wordFXYN_maskN _ _ _ _).trans rfl
theorem TableRow.shl (x : Reg) (y : Reg) : TableRow.Statement (.shl x y) := (TableRow.wordFXYN_maskN _ _ _ _).trans rfl
theorem TableRow.sneReg (x : Reg) (y : Reg) : TableRow.Statement (.sneReg x y) := (TableRow.wordFXYN_mask _ _ _ _).trans rfl
theorem TableRow.ldI (nnn : Addr) : TableRow.Statement (.ldI nnn) := (TableRow.wordFNNN_mask _ _).trans rfl
theorem TableRow.jpV0 (x : Reg) (nnn : Addr) : TableRow.Statement (.jpV0 x nnn) := (TableRow.wordFNNN_mask _ _).trans rfl
theorem TableRow.rnd (x : Reg) (nn : Byte) : TableRow.Statement (.rnd x nn) := (TableRow.wordFXNN_mask _ _ _).trans rfl
theorem TableRow.drw (x : Reg) (y : Reg) (n : Nibble) : TableRow.Statement (.drw x y n) := (TableRow.wordFXYN_mask _ _ _ _).trans rfl
theorem TableRow.skp (x : Reg) : TableRow.Statement (.skp x) := (TableRow.wordFXNN_maskNN _ _ _).trans rfl
theorem TableRow.sknp (x : Reg) : TableRow.Statement (.sknp x) := (TableRow.wordFXNN_maskNN _ _ _).trans rfl
theorem TableRow.ldVxDt (x : Reg) : TableRow.Statement (.ldVxDt x) := (TableRow.wordFXNN_maskNN _ _ _).trans rfl
theorem TableRow.ldDtVx (x : Reg) : TableRow.Statement (.ldDtVx x) := (TableRow.wordFXNN_maskNN _ _ _).trans rfl
theorem TableRow.ldStVx (x : Reg) : TableRow.Statement (.ldStVx x) := (TableRow.wordFXNN_maskNN _ _ _).trans rfl
theorem TableRow.addI (x : Reg) : TableRow.Statement (.addI x) := (TableRow.wordFXNN_maskNN _ _ _).trans rfl
theorem TableRow.ldVxK (x : Reg) : TableRow.Statement (.ldVxK x) := (TableRow.wordFXNN_maskNN _ _ _).trans rfl
theorem TableRow.ldF (x : Reg) : TableRow.Statement (.ldF x) := (TableRow.wordFXNN_maskNN _ _ _).trans rfl
theorem TableRow.ldB (x : Reg) : TableRow.Statement (.ldB x) := (TableRow.wordFXNN_maskNN _ _ _).trans rfl
theorem TableRow.ldMemVx (x : Reg) : TableRow.Statement (.ldMemVx x) := (TableRow.wordFXNN_maskNN _ _ _).trans rfl
theorem TableRow.ldVxMem (x : Reg) : TableRow.Statement (.ldVxMem x) := (TableRow.wordFXNN_maskNN _ _ _).trans rfl

end Sys2Proof.Laws
end

