-- ==== Sys2Proof/Laws/Step.lean ====
section
/-!
SUPPORT. Everything a step can answer (spec/30_encoding.md R74; spec/60_exceptions.md R207), and what the loader can do
(spec/70_reset_and_hazards.md R232 to R236).
-/

namespace Sys2Proof.Machine

open Sys2Proof

theorem State.fetch_eq_none (s : State) : s.fetch = none ↔ s.pc.toNat + 1 > 0xFFF := by
  simp only [State.fetch]
  split_ifs with h <;> simp [h]

theorem State.fetch_eq_some (s : State) (w : Word) :
    s.fetch = some w ↔ s.pc.toNat + 1 ≤ 0xFFF ∧ s.wordAt s.pc.toNat = w := by
  simp only [State.fetch]
  split_ifs with h
  · simp only [false_iff, not_and]
    omega
  · simp only [Option.some.injEq]
    constructor
    · exact fun hw => ⟨by omega, hw⟩
    · exact fun hw => hw.2

/-- The fetched word as a number: the byte at the lower address is the high one (R54, R55). -/
theorem State.wordAt_toNat (s : State) (a : Nat) :
    (s.wordAt a).toNat = (s.mem.read a).toNat * 256 + (s.mem.read (a + 1)).toNat := by
  have := (s.mem.read (a + 1)).isLt
  simp only [State.wordAt, wordOfBytes, BitVec.toNat_append]
  rw [← Nat.shiftLeft_add_eq_or_of_lt this, Nat.shiftLeft_eq]

/-- The fetch sees memory and PC alone, so the host's moves do not change it. -/
theorem State.fetch_deliver (s : State) : s.deliver.fetch = s.fetch := by
  simp [State.fetch, State.wordAt]

/-- Everything a call of `step()` can answer, in the order of its checks (R207). -/
theorem fetchDecodeExecute_cases (s : State) :
    (s.loaded = false ∧ fetchDecodeExecute s = .refused .notLoaded) ∨
      (s.loaded = true ∧ s.fetch = none ∧ fetchDecodeExecute s = .fault (.fetchOutOfBounds s.pc s)) ∨
      (∃ w e, s.loaded = true ∧ s.fetch = some w ∧ decodeWord w = .error e ∧
        fetchDecodeExecute s = .fault (.unsupportedOperation s)) ∨
      (∃ w i, s.loaded = true ∧ s.fetch = some w ∧ decodeWord w = .ok i ∧ fetchDecodeExecute s = exec i s) := by
  cases hl : s.loaded with
  | false => exact .inl ⟨rfl, by simp [fetchDecodeExecute, hl]⟩
  | true =>
    refine .inr ?_
    cases hf : s.fetch with
    | none => exact .inl ⟨rfl, rfl, by simp [fetchDecodeExecute, hl, hf, State.raiseFetchOutOfBounds]⟩
    | some w =>
      refine .inr ?_
      cases hd : decodeWord w with
      | error e =>
        exact .inl ⟨w, e, rfl, rfl, hd, by simp [fetchDecodeExecute, hl, hf, decodeExecute, hd, State.raiseUnsupported]⟩
      | ok i => exact .inr ⟨w, i, rfl, rfl, hd, by simp [fetchDecodeExecute, hl, hf, decodeExecute, hd]⟩

/-- A step that answers a next state ran the instruction it decoded, on the state with the host's moves delivered. -/
theorem step_eq_next {s t : State} (h : step s = .next t) :
    ∃ w i, s.loaded = true ∧ s.fetch = some w ∧ decodeWord w = .ok i ∧ exec i s.deliver = .next t := by
  rcases fetchDecodeExecute_cases s.deliver with ⟨_, h'⟩ | ⟨_, _, h'⟩ | ⟨_, _, _, _, _, h'⟩ | ⟨w, i, hl, hf, hd, h'⟩ <;>
    rw [step, h'] at h
  · cases h
  · cases h
  · cases h
  · exact ⟨w, i, by simpa using hl, by rwa [State.fetch_deliver] at hf, hd, h⟩

/-- Everything loadProgram can answer (R233 to R236). -/
theorem State.loadProgram_cases (s : State) (bytes : List Byte) :
    (s.loaded = true ∧ s.loadProgram bytes = .refused .alreadyLoaded) ∨
      (s.loaded = false ∧ 3584 < bytes.length ∧ s.loadProgram bytes = .error .tooLarge) ∨
      (s.loaded = false ∧ bytes.length ≤ 3584 ∧
        s.loadProgram bytes = .ok { s with mem := s.mem.writeBytes 0x200 bytes, pc := 0x200, loaded := true }) := by
  cases hl : s.loaded with
  | true => exact .inl ⟨rfl, by simp [State.loadProgram, hl]⟩
  | false =>
    refine .inr ?_
    by_cases hb : 3584 < bytes.length
    · exact .inl ⟨rfl, hb, by simp [State.loadProgram, hl, maxProg, hb]⟩
    · have hc : s.mem.copy progBase bytes = some (s.mem.writeBytes progBase bytes) :=
        Memory.copy_eq_some.2 ⟨by simp only [progBase, memSize]; omega, rfl⟩
      exact .inr ⟨rfl, by omega, by
        simp only [State.loadProgram, hl, maxProg, hb, hc, Bool.false_eq_true, if_false]
        rfl⟩

end Sys2Proof.Machine
end

