-- ==== Sys2Proof/Machine/Assembly.lean ====
section
/-!
DEFINITION. The assembler notation of the spec (spec/30_encoding.md R81, R82; D26, log 34): the text of an instruction, and
the program image of a listing with labels and DW. No step uses it.
-/

namespace Sys2Proof

/-! ### The text of an instruction (R81) -/

/-- A hexadecimal digit. -/
def hexDigit (d : BitVec 4) : String :=
  match d.toNat with
  | 0 => "0" | 1 => "1" | 2 => "2" | 3 => "3" | 4 => "4" | 5 => "5" | 6 => "6" | 7 => "7"
  | 8 => "8" | 9 => "9" | 10 => "A" | 11 => "B" | 12 => "C" | 13 => "D" | 14 => "E" | _ => "F"

/-- A register, V0 to VF. -/
def regText (x : Reg) : String := "V" ++ hexDigit x

/-- An immediate of 4 bits. -/
def nibbleText (n : Nibble) : String := "0x" ++ hexDigit n

/-- An immediate of 8 bits. -/
def byteText (b : Byte) : String := "0x" ++ hexDigit (b.extractLsb' 4 4) ++ hexDigit (b.extractLsb' 0 4)

/-- An address of 12 bits. -/
def addrText (a : Addr) : String :=
  "0x" ++ hexDigit (a.extractLsb' 8 4) ++ hexDigit (a.extractLsb' 4 4) ++ hexDigit (a.extractLsb' 0 4)

/-- A mnemonic with two operands. -/
def binaryText (mnemonic a b : String) : String := mnemonic ++ " " ++ a ++ ", " ++ b

/-- The text of an instruction: its mnemonic and operands as R76 and R81 write them. -/
def Instr.text (i : Instr) : String :=
  match i with
  | .cls => "CLS"
  | .ret => "RET"
  | .jp nnn => "JP " ++ addrText nnn
  | .call nnn => "CALL " ++ addrText nnn
  | .seImm x nn => binaryText "SE" (regText x) (byteText nn)
  | .sneImm x nn => binaryText "SNE" (regText x) (byteText nn)
  | .seReg x y => binaryText "SE" (regText x) (regText y)
  | .ldImm x nn => binaryText "LD" (regText x) (byteText nn)
  | .addImm x nn => binaryText "ADD" (regText x) (byteText nn)
  | .ldReg x y => binaryText "LD" (regText x) (regText y)
  | .orReg x y => binaryText "OR" (regText x) (regText y)
  | .andReg x y => binaryText "AND" (regText x) (regText y)
  | .xorReg x y => binaryText "XOR" (regText x) (regText y)
  | .addReg x y => binaryText "ADD" (regText x) (regText y)
  | .sub x y => binaryText "SUB" (regText x) (regText y)
  | .shr x y => binaryText "SHR" (regText x) (regText y)
  | .subn x y => binaryText "SUBN" (regText x) (regText y)
  | .shl x y => binaryText "SHL" (regText x) (regText y)
  | .sneReg x y => binaryText "SNE" (regText x) (regText y)
  | .ldI nnn => binaryText "LD" "I" (addrText nnn)
  | .jpV0 _ nnn => binaryText "JP" "V0" (addrText nnn)
  | .rnd x nn => binaryText "RND" (regText x) (byteText nn)
  | .drw x y n => binaryText "DRW" (regText x) (regText y ++ ", " ++ nibbleText n)
  | .skp x => "SKP " ++ regText x
  | .sknp x => "SKNP " ++ regText x
  | .ldVxDt x => binaryText "LD" (regText x) "DT"
  | .ldDtVx x => binaryText "LD" "DT" (regText x)
  | .ldStVx x => binaryText "LD" "ST" (regText x)
  | .addI x => binaryText "ADD" "I" (regText x)
  | .ldVxK x => binaryText "LD" (regText x) "K"
  | .ldF x => binaryText "LD" "F" (regText x)
  | .ldB x => binaryText "LD" "B" (regText x)
  | .ldMemVx x => binaryText "LD" "[I]" (regText x)
  | .ldVxMem x => binaryText "LD" (regText x) "[I]"

/-! ### The image of a listing (R81, R82) -/

/-- One item of a listing. -/
inductive AsmItem where
  /-- A label `name:`, the address of the next item. -/
  | label (name : String)
  /-- An instruction. -/
  | instr (i : Instr)
  /-- An instruction whose address operand is a label. -/
  | instrTo (i : Instr) (name : String)
  /-- `DW 0xhhhh`: the word at the current address. -/
  | dw (w : Word)
  deriving DecidableEq, Repr

/-- How many bytes an item takes. -/
def AsmItem.size (item : AsmItem) : Nat :=
  match item with
  | .label _ => 0
  | .instr _ | .instrTo _ _ | .dw _ => 2

/-- The address a label stands for, in a listing whose first item stands at `here`. Of two labels of one name the first is
taken: R81 is silent, and this is the model's choice (DESIGN CHOICE, log 34). -/
def labelAddr (items : List AsmItem) (here : Nat) (name : String) : Option Nat :=
  match items with
  | [] => none
  | .label other :: rest => if other = name then some here else labelAddr rest here name
  | item :: rest => labelAddr rest (here + item.size) name

/-- The instruction with another address operand. An instruction that has none is left as it is, so a label given to it is
ignored: R81 is silent, and this is the model's choice (DESIGN CHOICE, log 34). -/
def Instr.withAddr (i : Instr) (a : Addr) : Instr :=
  match i with
  | .jp _ => .jp a
  | .call _ => .call a
  | .ldI _ => .ldI a
  | .jpV0 _ _ => .jpV0 (regOfAddr a) a
  | .cls | .ret | .seImm _ _ | .sneImm _ _ | .seReg _ _ | .ldImm _ _ | .addImm _ _ => i
  | .ldReg _ _ | .orReg _ _ | .andReg _ _ | .xorReg _ _ | .addReg _ _ | .sub _ _ | .shr _ _ | .subn _ _ | .shl _ _ => i
  | .sneReg _ _ | .rnd _ _ | .drw _ _ _ | .skp _ | .sknp _ => i
  | .ldVxDt _ | .ldDtVx _ | .ldStVx _ | .addI _ | .ldVxK _ | .ldF _ | .ldB _ | .ldMemVx _ | .ldVxMem _ => i

/-- The bytes of an item; none when its label is not in the listing, or its address does not fit in 12
bits. -/
def AsmItem.bytes (item : AsmItem) (labels : String → Option Nat) : Option (List Byte) :=
  match item with
  | .label _ => some []
  | .instr i => some (bytesOfWord (encode i))
  | .instrTo i name =>
    (labels name).bind fun a =>
      if a < 0x1000 then some (bytesOfWord (encode (i.withAddr (BitVec.ofNat 12 a)))) else none
  | .dw w => some (bytesOfWord w)

/-- The bytes of several items. -/
def itemsBytes (items : List AsmItem) (labels : String → Option Nat) : Option (List Byte) :=
  match items with
  | [] => some []
  | item :: rest => (item.bytes labels).bind fun bs => (itemsBytes rest labels).map fun more => bs ++ more

/-- The program image of a listing, whose first item stands at 0x200. -/
def assemble (items : List AsmItem) : Option (List Byte) :=
  itemsBytes items (labelAddr items Machine.progBase)

end Sys2Proof
end

