-- ==== Sys2Proof/Tests/Slice0.lean ====
section
/-!
SUPPORT. Tests of the model against the words and vectors of spec/30_encoding.md R76 and spec/95_test_vectors.md, and for
every statement that has hypotheses a witness that meets them together. Expected values come from those files.
-/

namespace Sys2Proof.Tests

open Sys2Proof Sys2Proof.Machine Sys2Proof.Claims

/-! ### Small states -/

/-- A loaded machine with the legacy variants, the default font parameters and nothing in memory. -/
def start : State :=
  { State.reset with
    loaded := true
    config := { State.reset.config with shiftVariant := .legacy, jumpVariant := .legacy } }

/-- The same machine with the modern variants. -/
def modern : State :=
  { start with config := { start.config with shiftVariant := .modern, jumpVariant := .modern } }

/-- `start` at another PC. -/
def startAt (pc : Word) : State := start.jumpTo pc

/-- `start` with two registers set. -/
def regs (x : Reg) (a : Byte) (y : Reg) (b : Byte) : State := (start.writeV x a).writeV y b

/-- `start` with a depth and every entry of the stack set. -/
def depth (sp : Fin 17) (w : Word) : State := start.setStack sp (Vector.replicate 16 w)

/-- `start` with I set and a run of bytes stored there. -/
def block (i : Word) (bytes : List Byte) : State := (start.setI i).writeBlock bytes

/-- `start` with a word of two bytes at its PC. -/
def atPc (hi lo : Byte) : State := { start with mem := start.mem.writeBytes 0x200 [hi, lo] }

/-- `start` with one key pressed. -/
def pressed (k : BitVec 4) : State := start.setKey k true

/-- One step on the word, as an opcode-table word at PC, answers a next state with the property. -/
def ran (w : Nat) (s : State) (p : State → Bool) : Bool :=
  match step (s.withFetchWord 16 w) with
  | .next t => p t
  | .fault _ => false
  | .refused _ => false

/-- One step on the word ends in a fault with the code, and the reported state has the property. -/
def ended (w : Nat) (s : State) (code : Nat) (p : State → Bool) : Bool :=
  match step (s.withFetchWord 16 w) with
  | .next _ => false
  | .fault f => f.code == code && p f.reported
  | .refused _ => false

/-- How many pixels are lit. -/
def lit (d : Display) : Nat := (d.toList.map fun row => row.toList.count true).sum

/-! ### Well-formedness and decoding -/

/-- The one ill-formed term there is: X of JP V0 beside an NNN with another top nibble. -/
theorem test_illFormed_jpV0_refused : (Instr.jpV0 0x3 0x210).wellFormed = false := by decide
theorem test_wellFormed_jpV0 : (Instr.jpV0 0x2 0x210).wellFormed = true := by decide

theorem test_decode_families0to4 :
    decodeWord 0x00E0 = .ok .cls ∧ decodeWord 0x00EE = .ok .ret ∧ decodeWord 0x1ABC = .ok (.jp 0xABC) ∧
    decodeWord 0x2300 = .ok (.call 0x300) ∧ decodeWord 0x3F01 = .ok (.seImm 0xF 0x01) ∧
    decodeWord 0x4206 = .ok (.sneImm 0x2 0x06) := by decide
theorem test_decode_families5to7_9 :
    decodeWord 0x5341 = .ok (.seReg 0x3 0x4) ∧ decodeWord 0x6142 = .ok (.ldImm 0x1 0x42) ∧
    decodeWord 0x750A = .ok (.addImm 0x5 0x0A) ∧ decodeWord 0x9340 = .ok (.sneReg 0x3 0x4) := by decide
theorem test_decode_family8 :
    decodeWord 0x8120 = .ok (.ldReg 0x1 0x2) ∧ decodeWord 0x8121 = .ok (.orReg 0x1 0x2) ∧
    decodeWord 0x8122 = .ok (.andReg 0x1 0x2) ∧ decodeWord 0x8123 = .ok (.xorReg 0x1 0x2) ∧
    decodeWord 0x81F4 = .ok (.addReg 0x1 0xF) ∧ decodeWord 0x8F15 = .ok (.sub 0xF 0x1) ∧
    decodeWord 0x8126 = .ok (.shr 0x1 0x2) ∧ decodeWord 0x8127 = .ok (.subn 0x1 0x2) ∧
    decodeWord 0x812E = .ok (.shl 0x1 0x2) := by decide
theorem test_decode_familiesAtoE :
    decodeWord 0xA123 = .ok (.ldI 0x123) ∧ decodeWord 0xB210 = .ok (.jpV0 0x2 0x210) ∧
    decodeWord 0xC30F = .ok (.rnd 0x3 0x0F) ∧ decodeWord 0xD125 = .ok (.drw 0x1 0x2 0x5) ∧
    decodeWord 0xE19E = .ok (.skp 0x1) ∧ decodeWord 0xE1A1 = .ok (.sknp 0x1) := by decide
theorem test_decode_familyF :
    decodeWord 0xF307 = .ok (.ldVxDt 0x3) ∧ decodeWord 0xF50A = .ok (.ldVxK 0x5) ∧
    decodeWord 0xF215 = .ok (.ldDtVx 0x2) ∧ decodeWord 0xF418 = .ok (.ldStVx 0x4) ∧
    decodeWord 0xFF1E = .ok (.addI 0xF) ∧ decodeWord 0xF029 = .ok (.ldF 0x0) ∧
    decodeWord 0xFA33 = .ok (.ldB 0xA) ∧ decodeWord 0xF255 = .ok (.ldMemVx 0x2) ∧
    decodeWord 0xF265 = .ok (.ldVxMem 0x2) := by decide

/-- V0.6 to V0.11: words that select no form, one of each kind. -/
theorem test_decode_unsupported :
    decodeWord 0x0123 = .error (.family0 0x0123) ∧ decodeWord 0x00E1 = .error (.family0 0x00E1) ∧
    decodeWord 0x8128 = .error (.family8 0x8128) ∧ decodeWord 0x812F = .error (.family8 0x812F) ∧
    decodeWord 0xE19F = .error (.familyE 0xE19F) ∧ decodeWord 0xF000 = .error (.familyF 0xF000) := by decide

/-- V0.1: the byte at the lower address is the high byte of the word; bytes after it are left. -/
theorem test_decode_bigEndian : decode [0x12, 0x34, 0x56] = .ok (.jp 0x234, [0x56]) := by decide
theorem test_decode_truncated : decode [0x12] = .error .truncated := by decide
theorem test_decodeTableWord : decodeTableWord 16 0xD125 = some (.drw 0x1 0x2 0x5) ∧ decodeTableWord 16 0 = none := by
  decide

/-! ### Assembler notation -/

theorem test_text :
    (Instr.drw 0x1 0x2 0x5).text = "DRW V1, V2, 0x5" ∧ (Instr.ldI 0x300).text = "LD I, 0x300" ∧
    (Instr.ldVxMem 0x2).text = "LD V2, [I]" ∧ (Instr.seImm 0xF 0x0A).text = "SE VF, 0x0A" := by decide

/-- P1 of spec/95_test_vectors.md, its two targets written as labels, gives the image listed there. -/
theorem test_assemble :
    assemble [.instr (.ldImm 0x0 0x00), .instr (.ldImm 0x1 0x05), .label "loop", .instr (.addReg 0x0 0x1),
      .instr (.addImm 0x1 0xFF), .instr (.seImm 0x1 0x00), .instrTo (.jp 0) "loop", .label "end", .instrTo (.jp 0) "end"] =
    some [0x60, 0x00, 0x61, 0x05, 0x80, 0x14, 0x71, 0xFF, 0x31, 0x00, 0x12, 0x04, 0x12, 0x0C] := by decide
theorem test_assemble_dw : assemble [.dw 0x1234, .instrTo .cls "none"] = none ∧ assemble [.dw 0x1234] = some [0x12, 0x34] := by
  decide

/-! ### Fetching, loading and the order of outcomes -/

/-- V0.2: an odd PC is legal. -/
theorem test_fetch_oddPc : ran 0x6007 (startAt 0x201) (fun t => t.readV 0 == 7 && t.pc == 0x203) = true := by decide
/-- V0.3: the last word of memory can be fetched. -/
theorem test_fetch_lastWord : ran 0x6001 (startAt 0xFFE) (fun t => t.readV 0 == 1 && t.pc == 0x1000) = true := by decide
/-- V0.5, V12.1: PC = 0xFFF ends the step before any decode. -/
theorem test_fetch_outOfBounds : ended 0x6001 (startAt 0xFFF) 0x10 (fun t => t.pc == 0xFFF) = true := by decide
/-- V0.6: an unsupported word leaves PC on it. -/
theorem test_step_unsupported : ended 0x0000 start 3 (fun t => t.pc == 0x200) = true := by decide
/-- V12.2: decode comes before the key index. -/
theorem test_step_decodeBeforeKey : ended 0xE1FF (start.writeV 1 0x20) 3 (fun _ => true) = true := by decide
/-- R200: Ok is a success with code 0; an unsupported word is an engine failure with code 3. -/
theorem test_outcome_ok :
    outcomeCode (step (atPc 0x00 0xE0)) = some 0 ∧ outcomeKind (step (atPc 0x00 0xE0)) = some .success := by decide
theorem test_outcome_unsupported :
    outcomeCode (step start) = some 3 ∧ outcomeKind (step start) = some .engineFailure := by decide
/-- R236: no step before a load. -/
theorem test_step_notLoaded : step State.reset = .refused .notLoaded := by rfl
/-- The first step after reset runs the placed word, here of a form that reads no variant. -/
theorem test_withFetchWord_fromReset :
    ran 0x6142 State.reset (fun t => t.readV 1 == 0x42 && t.pc == 0x202) = true := by decide
/-- V0.13: the default font stands at 0x000, and glyph 0 starts F0 90. -/
theorem test_loadFont : (State.initialised.mem.readBytes 0 5, State.initialised.mem.read 79) =
    ([0xF0, 0x90, 0x90, 0x90, 0xF0], 0x80) := by decide
/-- S8: the image 61 42, loaded and stepped. -/
theorem test_boot_step : (match State.boot [0x61, 0x42] with
    | .ok s => (match step s with
      | .next t => t.readV 1 == 0x42 && t.pc == 0x202
      | _ => false)
    | _ => false) = true := by decide

/-! ### Control transfer and skips -/

theorem test_jp : ran 0x1ABC start (fun t => t.pc == 0xABC) = true := by decide
/-- S9, V1.3. -/
theorem test_call : ran 0x2300 start (fun t => t.stack[0] == 0x202 && t.sp == 1 && t.pc == 0x300) = true := by decide
/-- V1.4: the jump happens and the stack is unchanged. -/
theorem test_call_overflow :
    ended 0x2600 (depth 16 0x404) 1 (fun t => t.sp == 16 && t.stack == Vector.replicate 16 0x404 && t.pc == 0x600) = true := by
  decide
theorem test_ret : ran 0x00EE (depth 2 0x404) (fun t => t.pc == 0x404 && t.sp == 1) = true := by decide
/-- V1.7. -/
theorem test_ret_underflow : ended 0x00EE (startAt 0x300) 2 (fun t => t.pc == 0x300 && t.sp == 0) = true := by decide
/-- V1.9 and V1.10. -/
theorem test_seImm_taken : ran 0x3100 start (fun t => t.pc == 0x204) = true := by decide
theorem test_seImm_notTaken : ran 0x3100 (start.writeV 1 1) (fun t => t.pc == 0x202) = true := by decide
/-- V1.11 and V1.12. -/
theorem test_sneImm_taken : ran 0x4206 (start.writeV 2 5) (fun t => t.pc == 0x204) = true := by decide
theorem test_sneImm_notTaken : ran 0x4206 (start.writeV 2 6) (fun t => t.pc == 0x202) = true := by decide
/-- V0.12, V1.14. -/
theorem test_seReg_ignoresN : ran 0x5341 (regs 3 0x10 4 0x10) (fun t => t.pc == 0x204) = true := by decide
theorem test_seReg_notTaken : ran 0x5340 (regs 3 0x10 4 0x11) (fun t => t.pc == 0x202) = true := by decide
/-- V1.16 and V1.17. -/
theorem test_sneReg_taken : ran 0x9340 (regs 3 1 4 2) (fun t => t.pc == 0x204) = true := by decide
theorem test_sneReg_same : ran 0x9770 (start.writeV 7 9) (fun t => t.pc == 0x202) = true := by decide
/-- V1.20 and V1.21. -/
theorem test_jpV0_modern : ran 0xB210 ((modern.writeV 2 6).writeV 0 4) (fun t => t.pc == 0x216) = true := by decide
theorem test_jpV0_legacyNoWrap : ran 0xBFFF (start.writeV 0 0xFF) (fun t => t.pc == 0x10FE) = true := by decide

/-! ### Immediate and address register -/

/-- V2.2: VF is an ordinary destination. -/
theorem test_ldImm_vf : ran 0x6F07 start (fun t => t.readV 0xF == 7 && t.pc == 0x202) = true := by decide
/-- S10, V2.3. -/
theorem test_addImm_wraps :
    ran 0x750A (regs 5 0xFA 0xF 0x33) (fun t => t.readV 5 == 4 && t.readV 0xF == 0x33) = true := by decide
theorem test_ldI : ran 0xAFFF start (fun t => t.i == 0x0FFF && t.pc == 0x202) = true := by decide
/-- V2.8: a zero mask gives zero whatever byte is drawn. -/
theorem test_rnd_zeroMask : exec (.rnd 0x3 0x00) start = .next (start.countDraw.writeV 3 0x00).advance := by
  simp [exec, execRnd]

/-! ### Arithmetic and logic (V8.0 to V8.22) -/

theorem test_ldReg : ran 0x8120 (regs 1 0x12 2 0x34) (fun t => t.readV 1 == 0x34 && t.readV 2 == 0x34) = true := by decide
theorem test_orReg : ran 0x8121 (regs 1 0xF0 2 0x0F) (fun t => t.readV 1 == 0xFF && t.readV 0xF == 0) = true := by decide
theorem test_andReg : ran 0x8122 (regs 1 0xF0 2 0x3C) (fun t => t.readV 1 == 0x30 && t.readV 2 == 0x3C) = true := by decide
theorem test_xorReg_self : ran 0x8113 (start.writeV 1 0x5A) (fun t => t.readV 1 == 0) = true := by decide
theorem test_addReg_doubles : ran 0x8114 (start.writeV 1 0x80) (fun t => t.readV 1 == 0 && t.readV 0xF == 1) = true := by
  decide
theorem test_addReg_flagWins : ran 0x8F14 (regs 0xF 0xFF 1 1) (fun t => t.readV 0xF == 1) = true := by decide
theorem test_sub_equal : ran 0x8125 (regs 1 5 2 5) (fun t => t.readV 1 == 0 && t.readV 0xF == 0) = true := by decide
theorem test_sub_borrow : ran 0x8125 (regs 1 3 2 5) (fun t => t.readV 1 == 0xFE && t.readV 0xF == 0) = true := by decide
theorem test_subn : ran 0x8127 (regs 1 3 2 5) (fun t => t.readV 1 == 2 && t.readV 0xF == 1) = true := by decide
theorem test_subn_equal : ran 0x8127 (regs 1 5 2 5) (fun t => t.readV 1 == 0 && t.readV 0xF == 0) = true := by decide
theorem test_shr_legacy :
    ran 0x8126 (regs 1 0x81 2 0x08) (fun t => t.readV 1 == 4 && t.readV 0xF == 0 && t.readV 2 == 8) = true := by decide
theorem test_shr_modern :
    ran 0x8126 ((modern.writeV 1 0x81).writeV 2 0x08) (fun t => t.readV 1 == 0x40 && t.readV 0xF == 1 && t.readV 2 == 8) =
      true := by decide
theorem test_shl_legacy : ran 0x812E (regs 1 0x81 2 0x40) (fun t => t.readV 1 == 0x80 && t.readV 0xF == 0) = true := by
  decide
theorem test_shl_modern :
    ran 0x812E ((modern.writeV 1 0x81).writeV 2 0x40) (fun t => t.readV 1 == 2 && t.readV 0xF == 1) = true := by decide

/-! ### Display (V9) -/

/-- V9.1. -/
theorem test_cls :
    ran 0x00E0 (start.setDisp (Vector.replicate 32 (Vector.replicate 64 true))) (fun t => lit t.disp == 0 && t.pc == 0x202) =
      true := by decide
/-- V9.8: a sprite row wraps to the left edge. -/
theorem test_drw_wraps :
    ran 0xD011 ((block 0x300 [0xFF]).writeV 0 62)
      (fun t => t.disp.pixel 62 0 && t.disp.pixel 63 0 && t.disp.pixel 0 0 && t.disp.pixel 5 0 && lit t.disp == 8) = true := by
  decide
/-- V9.11: a sprite byte above 0xFFF ends the step, and nothing is drawn. -/
theorem test_drw_outOfBounds : ended 0xD012 (block 0xFFF [0x80]) 0x11 (fun t => lit t.disp == 0 && t.pc == 0x200) = true := by
  decide

/-! ### Keys (V10) -/

theorem test_skp_pressed : ran 0xE19E ((pressed 0xF).writeV 1 0x0F) (fun t => t.pc == 0x204) = true := by decide
theorem test_skp_noMask : ended 0xE19E ((pressed 0xA).writeV 1 0x1A) 0x12 (fun t => t.pc == 0x200) = true := by decide
theorem test_sknp_pressed : ran 0xE1A1 ((pressed 0xA).writeV 1 0x0A) (fun t => t.pc == 0x202) = true := by decide
theorem test_sknp_released : ran 0xE1A1 (start.writeV 1 0x0A) (fun t => t.pc == 0x204) = true := by decide

/-! ### Timers, address register and memory blocks (V11) -/

theorem test_ldVxDt : ran 0xF307 (start.setDt 0x3C) (fun t => t.readV 3 == 0x3C && t.pc == 0x202) = true := by decide
theorem test_ldDtVx : ran 0xF015 (start.writeV 0 0x3C) (fun t => t.dt == 0x3C && t.st == 0) = true := by decide
theorem test_ldStVx : ran 0xF018 (start.writeV 0 5) (fun t => t.st == 5 && t.dt == 0) = true := by decide
/-- V11.6 and V11.8. -/
theorem test_addI_flag : ran 0xF01E ((start.setI 0x0FFF).writeV 0 1) (fun t => t.i == 0x1000 && t.readV 0xF == 1) = true := by
  decide
theorem test_addI_wraps : ran 0xF01E ((start.setI 0xFFFF).writeV 0 1) (fun t => t.i == 0 && t.readV 0xF == 0) = true := by
  decide
/-- V11.11 and V11.13. -/
theorem test_ldVxK_waits : ran 0xF50A (startAt 0x300) (fun t => t.pc == 0x300 && t.readV 5 == 0) = true := by decide
theorem test_ldVxK_lowest :
    ran 0xF50A ((pressed 0x3).setKey 0xC true) (fun t => t.pc == 0x202 && t.readV 5 == 3) = true := by decide
/-- V11.15. -/
theorem test_ldF : ran 0xF029 (start.writeV 0 0xAB) (fun t => t.i == 0x0037) = true := by decide
/-- V11.19 and V11.20. -/
theorem test_ldB :
    ran 0xF033 ((start.setI 0x300).writeV 0 0x9C) (fun t => t.mem.readBytes 0x300 3 == [1, 5, 6] && t.i == 0x300) = true := by
  decide
theorem test_ldB_outOfBounds : ended 0xF033 (start.setI 0xFFE) 0x11 (fun t => t.mem.read 0xFFE == 0) = true := by decide
/-- V11.22 and V11.24. -/
theorem test_ldMemVx :
    ran 0xF255 (((regs 0 1 1 2).writeV 2 3).setI 0x400) (fun t => t.mem.readBytes 0x400 4 == [1, 2, 3, 0] && t.i == 0x400) =
      true := by decide
theorem test_ldMemVx_outOfBounds : ended 0xFF55 (start.setI 0xFF1) 0x11 (fun _ => true) = true := by decide
/-- V11.26 and V11.27. -/
theorem test_ldVxMem :
    ran 0xF265 ((block 0x400 [0x0A, 0x0B, 0x0C, 0x0D]).writeV 3 0x77)
      (fun t => t.readV 0 == 0x0A && t.readV 2 == 0x0C && t.readV 3 == 0x77 && t.i == 0x400) = true := by decide
theorem test_ldVxMem_outOfBounds : ended 0xF065 (start.setI 0x1000) 0x11 (fun _ => true) = true := by decide

/-! ### Host moves -/

/-- V11.4 and V11.5, both timers at once. -/
theorem test_timerTick : ((start.setDt 3).timerTick.dt, (start.setDt 3).timerTick.st, (start.setSt 1).timerTick.st) =
    (2, 0, 0) := by decide
/-- P6, schedule B, step 3: the tick lands before the step, which reads DT = 4. -/
theorem test_tickBeforeStep :
    ran 0xF107 { start.setDt 5 with inputs := [[.timerTick]] } (fun t => t.readV 1 == 4 && t.inputs == []) = true := by decide
/-- Every move of an entry lands: two ticks, and a key change that is not the last move. -/
theorem test_everyMoveLands :
    ran 0xF107 { start.setDt 5 with inputs := [[.timerTick, .keyChange 0x2 true, .timerTick]] }
      (fun t => t.readV 1 == 3 && t.keys[2] && !t.keys[3]) = true := by decide
/-- A key pressed before the step is seen by it. -/
theorem test_keyBeforeStep :
    ran 0xF50A { start with inputs := [[.keyChange 0xA true], []] } (fun t => t.readV 5 == 0xA && t.inputs == [[]]) = true := by
  decide

/-! ### Witnesses: states and operands that meet the hypotheses of each statement

Where a statement has several clauses, one witness for each, at the boundary of its range. -/

theorem test_witness_DecodeEncodeRoundTrip : (Instr.jpV0 0xF 0xFFF).wellFormed = true := by decide

theorem test_witness_DecodedWordIsItsEncodingButForIgnoredN :
    decodeWord 0x534F = .ok (.seReg 0x3 0x4) ∧ decodeWord 0xFF65 = .ok (.ldVxMem 0xF) := by decide

theorem test_witness_UnsupportedWordsFail_unsupported :
    (atPc 0xF0 0xFF).loaded = true ∧ (atPc 0xF0 0xFF).fetch = some 0xF0FF ∧ unsupportedWord 0xF0FF := by
  refine ⟨by decide, by decide, ?_⟩
  unfold unsupportedWord
  decide

theorem test_witness_UnsupportedWordsFail_supported :
    (atPc 0x00 0xEE).loaded = true ∧ (atPc 0x00 0xEE).fetch = some 0x00EE ∧ ¬unsupportedWord 0x00EE := by
  refine ⟨by decide, by decide, ?_⟩
  unfold unsupportedWord
  decide

theorem test_witness_StepRunsTheDecodedInstruction :
    (atPc 0x61 0x42).loaded = true ∧ (atPc 0x61 0x42).fetch = some 0x6142 ∧ decodeWord 0x6142 = .ok (.ldImm 0x1 0x42) := by
  decide

theorem test_witness_FetchIsBigEndianAndBounded :
    (startAt 0xFFE).loaded = true ∧ (startAt 0xFFE).pc.toNat + 1 ≤ 0xFFF ∧
    (startAt 0xFFF).loaded = true ∧ 0xFFF < (startAt 0xFFF).pc.toNat + 1 := by decide

theorem test_witness_RefusedUntilLoadedOnce : State.reset.loaded = false ∧ start.loaded = true := by decide

theorem test_witness_StepFaultsArePrecise :
    (∃ f, step ({ depth 16 0x404 with mem := [(0x200, 0x26)] }) = .fault f) ∧ (∃ f, step (startAt 0xFFF) = .fault f) ∧
    ∃ f, step start = .fault f := ⟨⟨_, rfl⟩, ⟨_, rfl⟩, ⟨_, rfl⟩⟩

theorem test_witness_ExecFaultsOnlyWhereTheRulesSay :
    (∃ r, exec (.call 0x600) (depth 16 0x404) = .fault (.stackOverflow r)) ∧
    (∃ r, exec .ret start = .fault (.stackUnderflow r)) ∧
    (∃ r, exec (.ldVxMem 0xF) (start.setI 0xFF1) = .fault (.dataOutOfBounds 0x1000 r)) ∧
    ∃ r, exec (.sknp 0x1) (start.writeV 1 0x10) = .fault (.keyIndexOutOfRange 0x10 r) :=
  ⟨⟨_, rfl⟩, ⟨_, rfl⟩, ⟨_, rfl⟩, ⟨_, rfl⟩⟩

theorem test_witness_CallPushesThenJumps :
    (depth 0 0).sp.val < 16 ∧ (depth 15 0).sp.val < 16 ∧ (depth 16 0).sp.val = 16 := by decide

theorem test_witness_ReturnPopsTheTop :
    0 < (depth 1 0).sp.val ∧ 0 < (depth 16 0).sp.val ∧ (depth 0 0).sp.val = 0 := by decide

/-- At the two ends of the depth, the first with another word in an entry above SP, as a nested CALL leaves. -/
theorem test_witness_CallThenReturn :
    (∃ t u : State, exec (.call 0x300) (depth 0 0x404) = .next t ∧ u.sp = t.sp ∧
      (∀ k : Fin 16, k.val < t.sp.val → u.stack[k] = t.stack[k]) ∧ u.stack[1] ≠ t.stack[1]) ∧
    ∃ t u : State, exec (.call 0x300) (depth 15 0x404) = .next t ∧ u.sp = t.sp ∧
      ∀ k : Fin 16, k.val < t.sp.val → u.stack[k] = t.stack[k] :=
  ⟨⟨_, (depth 0 0x404).setStack 1 ((Vector.replicate 16 0x404).set 0 0x202 |>.set 1 0x999), rfl, rfl, by decide, by decide⟩,
    _, _, rfl, rfl, fun _ _ => rfl⟩

/-- Both conditions of the immediate and the register skips, met and not met. -/
theorem test_witness_skips :
    start.readV 1 = 0x00 ∧ start.readV 1 ≠ 0x01 ∧ (regs 1 5 2 5).readV 1 = (regs 1 5 2 5).readV 2 ∧
    (regs 1 5 2 6).readV 1 ≠ (regs 1 5 2 6).readV 2 := by decide

theorem test_witness_JumpWithOffset : start.config.jumpVariant = .legacy ∧ modern.config.jumpVariant = .modern := by decide

theorem test_witness_KeySkips :
    ((start.writeV 1 0x0F).readV 1).toNat < 16 ∧ 15 < ((start.writeV 1 0x10).readV 1).toNat ∧
    ((pressed 0xF).writeV 1 0x0F).keys[15] = true ∧ (start.writeV 1 0x0F).keys[15] = false := by decide

/-- Either variant. -/
theorem test_witness_ShiftsFollowTheVariant :
    start.config.shiftVariant = .legacy ∧ modern.config.shiftVariant ≠ .legacy := by decide

theorem test_witness_DrawInvertsTheCoveredPixels :
    (0x0 : Nibble).toNat = 0 ∧ ((start.setI 0xFF1).i.toNat + (0xF : Nibble).toNat ≤ 0x1000) ∧
    0 < (0x1 : Nibble).toNat ∧ 0x1000 < (start.setI 0x1000).i.toNat + (0x1 : Nibble).toNat := by decide

/-- A covered pixel and one that is not. -/
theorem test_witness_covers :
    covers (block 0x300 [0x80]) 0x0 0x1 0x1 0 0 ∧ ¬covers (block 0x300 [0x80]) 0x0 0x1 0x0 0 0 := by
  refine ⟨⟨0, by decide, 0, by decide, by decide, by decide, by decide⟩, ?_⟩
  rintro ⟨r, hr, -⟩
  exact absurd hr (Nat.not_lt_zero r)

theorem test_witness_DrawingTwice :
    ∃ t u : State, (0x0 : Reg) ≠ 0xF ∧ (0x1 : Reg) ≠ 0xF ∧ exec (.drw 0x0 0x1 0x1) (block 0x300 [0x80]) = .next t ∧
      exec (.drw 0x0 0x1 0x1) t = .next u := ⟨_, _, by decide, by decide, rfl, rfl⟩

theorem test_witness_KeyWait :
    (pressed 0xF).keys[(15 : Fin 16)] = true ∧ (∀ j : Fin 16, j < 15 → (pressed 0xF).keys[j] = false) ∧
    (pressed 0x0).keys[(0 : Fin 16)] = true ∧ ∀ k : Fin 16, start.keys[k] = false := by decide

theorem test_witness_DecimalDigits :
    (start.setI 0xFFD).memoryCanonical ∧ (start.setI 0xFFD).i.toNat + 2 ≤ 0xFFF ∧
    (start.setI 0xFFE).memoryCanonical ∧ 0xFFF < (start.setI 0xFFE).i.toNat + 2 := by decide

/-- Also of LoadRegisterBlock. -/
theorem test_witness_StoreRegisterBlock :
    (start.setI 0xFF0).memoryCanonical ∧ (start.setI 0xFF0).i.toNat + (0xF : Reg).toNat ≤ 0xFFF ∧
    (start.setI 0xFF1).memoryCanonical ∧ 0xFFF < (start.setI 0xFF1).i.toNat + (0xF : Reg).toNat := by decide

theorem test_witness_StoreThenLoadRestores :
    ∃ t u : State, start.memoryCanonical ∧ exec (.ldMemVx 0xF) start = .next t ∧ u.mem = t.mem ∧ u.i = t.i :=
  ⟨_, _, by decide, rfl, rfl, rfl⟩

/-- LD B storing at PC + 2, and LD [I], V1 storing over its own word, each with the next fetch in range. -/
theorem test_witness_StoredBytesAreFetchedNext :
    (∃ t, ((atPc 0xF0 0x33).setI 0x202).memoryCanonical ∧ ((atPc 0xF0 0x33).setI 0x202).loaded = true ∧
      ((atPc 0xF0 0x33).setI 0x202).fetch = some 0xF033 ∧ decodeWord 0xF033 = .ok (.ldB 0x0) ∧
      step ((atPc 0xF0 0x33).setI 0x202) = .next t ∧ t.pc.toNat + 1 ≤ 0xFFF) ∧
    ∃ t, ((atPc 0xF1 0x55).setI 0x200).memoryCanonical ∧ ((atPc 0xF1 0x55).setI 0x200).loaded = true ∧
      ((atPc 0xF1 0x55).setI 0x200).fetch = some 0xF155 ∧ decodeWord 0xF155 = .ok (.ldMemVx 0x1) ∧
      step ((atPc 0xF1 0x55).setI 0x200) = .next t ∧ t.pc.toNat + 1 ≤ 0xFFF :=
  ⟨⟨_, by decide, by decide, by decide, by decide, rfl, by decide⟩,
    _, by decide, by decide, by decide, by decide, rfl, by decide⟩

/-- The first and the last byte of each store, and the one after it. -/
theorem test_storedByte :
    storedByte (.ldB 0x0) (start.writeV 0 0x9C) 0 = some 1 ∧ storedByte (.ldB 0x0) (start.writeV 0 0x9C) 2 = some 6 ∧
    storedByte (.ldB 0x0) start 3 = none ∧ storedByte (.ldMemVx 0xF) (start.writeV 0xF 7) 15 = some 7 ∧
    storedByte (.ldMemVx 0xF) start 16 = none := by decide

theorem test_witness_StackIsLastInFirstOut :
    (depth 14 0).sp.val + [(1 : Word), 2].length ≤ 16 ∧ 16 < (depth 15 0).sp.val + [(1 : Word), 2].length ∧
    (depth 0 0).sp.val = 0 := by decide

/-- Also of RegistersChangeOnlyWhereNamed (for a register below F) and, with PC = 0xFFE, of ProgramCounterTable. -/
theorem test_witness_EachInstructionWritesOnlyItsFields :
    ∃ t, exec (.addReg 0x1 0x2) (startAt 0xFFE) = .next t ∧ mayWriteReg (.addReg 0x1 0x2) 0x2 = false ∧
      (startAt 0xFFE).pc.toNat + 1 ≤ 0xFFF := ⟨_, rfl, by decide, by decide⟩

theorem test_witness_MemoryIsInvisibleToOtherInstructions : touchesMemory (.call 0x300) = false := by decide

theorem test_witness_SoundTimerIsNeverRead :
    (∀ x, Instr.cls ≠ .ldStVx x) ∧ Instr.ldStVx 0x3 = .ldStVx 0x3 := by simp

theorem test_witness_VariantsMatterOnlyToTheirForms :
    (∀ x y, Instr.cls ≠ .shr x y ∧ Instr.cls ≠ .shl x y) ∧ ∀ x nnn, Instr.cls ≠ .jpV0 x nnn := by simp

/-- One schedule for each clause. -/
theorem test_witness_HostMovesTouchOnlyTimersAndKeys :
    start.inputs = [] ∧ { start with inputs := [[]] }.inputs = [] :: [] ∧
    { start with inputs := [[.keyChange 0x0 true, .timerTick]] }.inputs =
      ([.keyChange 0x0 true] ++ [ExternalEvent.timerTick]) :: [] ∧
    { start with inputs := [[.timerTick, .keyChange 0xF true], []] }.inputs =
      ([.timerTick] ++ [ExternalEvent.keyChange 0xF true]) :: [[]] ∧
    { start with inputs := [[.timerTick, .timerTick]] }.inputs = List.replicate 2 ExternalEvent.timerTick :: [] := by decide

theorem test_witness_LoadProgramPlacesTheImage :
    State.initialised.memoryCanonical ∧ State.initialised.loaded = false ∧ (List.replicate 3584 (0x60 : Byte)).length ≤ 3584 :=
  ⟨by decide, by decide, by rw [List.length_replicate]⟩

theorem test_witness_CopyIsAllOrNothing :
    Memory.wf [(0x000, 0xF0)] ∧ 4096 < 4095 + [(1 : Byte), 2].length ∧ 4094 + [(1 : Byte), 2].length ≤ 4096 := by decide

theorem test_witness_GlyphsStandWhereLdFPoints :
    ∃ t, start.memoryCanonical ∧ start.configValid ∧ exec (.ldF 0xF) start.loadFont = .next t :=
  ⟨_, by decide, by decide, rfl⟩

theorem test_witness_BootedMemoryMap :
    (List.replicate 3584 (0x60 : Byte)).length ≤ 3584 ∧ 3584 < (List.replicate 3585 (0x60 : Byte)).length :=
  ⟨by rw [List.length_replicate], by rw [List.length_replicate]; decide⟩

/-- Of StepKeepsMemoryCanonical, StepKeepsPcInRange and StepKeepsTheConfiguration. -/
theorem test_witness_invariants :
    ∃ t, (atPc 0x61 0x42).memoryCanonical ∧ (atPc 0x61 0x42).pcInRange ∧ step (atPc 0x61 0x42) = .next t :=
  ⟨_, by decide, by decide, rfl⟩

theorem test_witness_InvariantsHoldAlongEveryRun :
    (∃ s, State.boot [0x61, 0x42] = .ok s) ∧
    ∃ t, (atPc 0x12 0x00).memoryCanonical ∧ (atPc 0x12 0x00).pcInRange ∧ (atPc 0x12 0x00).configValid ∧
      Host.Core.run Sys2Proof.core 2 (atPc 0x12 0x00) = .next t :=
  ⟨⟨_, rfl⟩, _, by decide, by decide, by decide, rfl⟩

theorem test_witness_KeyWaitSpins :
    (atPc 0xF5 0x0A).loaded = true ∧ (atPc 0xF5 0x0A).inputs = [] ∧ (atPc 0xF5 0x0A).fetch = some 0xF50A ∧
    decodeWord 0xF50A = .ok (.ldVxK 0x5) ∧ ∀ k : Fin 16, (atPc 0xF5 0x0A).keys[k] = false := by decide

theorem test_witness_EveryStepEndsInOneOutcomeOfTheTable : start.loaded = true := by decide

/-- V1.2: the self-jump. -/
theorem test_witness_FinishedRunStaysFinished :
    (atPc 0x12 0x00).loaded = true ∧ (atPc 0x12 0x00).inputs = [] ∧ (atPc 0x12 0x00).finished = true := by decide

end Sys2Proof.Tests
end

section
/-!
Copies (R63): what a copy that was done leaves at an address inside the run and at one outside it.
-/

namespace Sys2Proof.Proofs

open Sys2Proof Sys2Proof.Machine

/-- Byte `k` of a run that was copied stands at the start plus `k`. -/
theorem Memory.read_copy_inside {m m' : Memory} (hm : m.wf) {dst : Nat} {bytes : List Byte}
    (hc : m.copy dst bytes = some m') {k : Nat} (hk : k < bytes.length) : m'.read (dst + k) = bytes[k] := by
  obtain ⟨hfit, rfl⟩ := Memory.copy_eq_some.1 hc
  simp [Memory.read_writeBytes hm hfit, hk]

/-- A copy leaves every byte below its start, and every one from its end on. -/
theorem Memory.read_copy_outside {m m' : Memory} (hm : m.wf) {dst : Nat} {bytes : List Byte}
    (hc : m.copy dst bytes = some m') {a : Nat} (ha : a < dst ∨ dst + bytes.length ≤ a) : m'.read a = m.read a := by
  obtain ⟨hfit, rfl⟩ := Memory.copy_eq_some.1 hc
  rw [Memory.read_writeBytes hm hfit]
  rcases ha with hbelow | habove
  · exact if_neg (by omega)
  · have hpast : bytes.length ≤ a - dst := by omega
    simp [hpast]

/-- Settles O50: the size check decides which of the two a copy is, and a copy that is done is read back inside and
outside its run. -/
theorem copyIsAllOrNothing : Obligations.CopyIsAllOrNothing := by
  intro m dst bytes hm
  refine ⟨Memory.copy_eq_none.2, fun hfit => ?_⟩
  have hc : m.copy dst bytes = some (m.writeBytes dst bytes) := Memory.copy_eq_some.2 ⟨hfit, rfl⟩
  exact ⟨_, hc, fun _ hk => Memory.read_copy_inside hm hc hk, fun _ ha => Memory.read_copy_outside hm hc ha⟩

end Sys2Proof.Proofs
end

section
/-!
The configuration in execution (R79): fetch reads none of it, SHIFT_VARIANT is read by the two shifts alone, JUMP_VARIANT
by JP V0 alone and FONT_BASE by LD F alone.
-/

namespace Sys2Proof.Proofs

open Sys2Proof Sys2Proof.Machine Sys2Proof.Claims

/-- The machine with its configuration passed through a function: `withShift` and `withJump` are two of these. -/
def reconfigure (f : Config → Config) (s : State) : State := { s with config := f s.config }

theorem withShift_eq_reconfigure (u : Variant) : withShift u = reconfigure ({ · with shiftVariant := u }) := rfl

theorem withJump_eq_reconfigure (u : Variant) : withJump u = reconfigure ({ · with jumpVariant := u }) := rfl

section

variable (f : Config → Config) (s : State)

/-! ### Operations that read none of the configuration -/

@[simp] theorem fetch_reconfigure : (reconfigure f s).fetch = s.fetch := rfl

@[simp] theorem readBlock_reconfigure (n : Nat) : (reconfigure f s).readBlock n = s.readBlock n := rfl

@[simp] theorem writeRegs_reconfigure (bytes : List Byte) :
    (reconfigure f s).writeRegs bytes = reconfigure f (s.writeRegs bytes) := by
  simp only [State.writeRegs, reconfigure]

@[simp] theorem advance_reconfigure : (reconfigure f s).advance = reconfigure f s.advance := rfl

/-! ### Operations that read the configuration -/

theorem shiftSource_reconfigure (x y : Reg) (h : (f s.config).shiftVariant = s.config.shiftVariant) :
    (reconfigure f s).shiftSource x y = s.shiftSource x y := by
  unfold State.shiftSource reconfigure
  rw [h]
  rfl

theorem jumpOffset_reconfigure (x : Reg) (h : (f s.config).jumpVariant = s.config.jumpVariant) :
    (reconfigure f s).jumpOffset x = s.jumpOffset x := by
  unfold State.jumpOffset reconfigure
  rw [h]
  rfl

theorem glyphAddr_reconfigure (d : Nibble) (h : (f s.config).fontBase = s.config.fontBase) :
    (reconfigure f s).glyphAddr d = s.glyphAddr d := by
  unfold State.glyphAddr reconfigure
  rw [h]

/-! ### Operations and instructions that check something -/

theorem withBlock_reconfigure (n : Nat) {go go' : Result} (hgo : go' = mapState (reconfigure f) go) :
    (reconfigure f s).withBlock n go' = mapState (reconfigure f) (s.withBlock n go) := by
  cases n with
  | zero => exact hgo
  | succ k =>
    by_cases h : s.i.toNat + k > 0xFFF
    · rw [s.withBlock_outside go h, (reconfigure f s).withBlock_outside go' h]
      rfl
    · have hin : k + 1 = 0 ∨ s.i.toNat + (k + 1) ≤ 0x1000 := .inr (by omega)
      rw [s.withBlock_inside go hin, (reconfigure f s).withBlock_inside go' hin, hgo]

theorem withKey_reconfigure (k : Byte) {go go' : Bool → Result} (hgo : ∀ p, go' p = mapState (reconfigure f) (go p)) :
    (reconfigure f s).withKey k go' = mapState (reconfigure f) (s.withKey k go) := by
  unfold State.withKey
  split
  · exact hgo _
  · rfl

theorem execRet_reconfigure : execRet (reconfigure f s) = mapState (reconfigure f) (execRet s) := by
  rcases execRet_cases s with ⟨h, hs⟩ | ⟨h, hs⟩
  · rw [hs, execRet, (reconfigure f s).pop_of_pos h]
    rfl
  · rw [hs, execRet, (reconfigure f s).pop_eq_none.2 h]
    rfl

theorem execCall_reconfigure (nnn : Addr) :
    execCall nnn (reconfigure f s) = mapState (reconfigure f) (execCall nnn s) := by
  rcases execCall_cases nnn s with ⟨h, hs⟩ | ⟨h, hs⟩
  · rw [hs, execCall, (reconfigure f s).push_of_lt _ h]
    rfl
  · rw [hs, execCall, ((reconfigure f s).push_eq_none _).2 h]
    rfl

theorem execLdVxK_reconfigure (x : Reg) :
    execLdVxK x (reconfigure f s) = mapState (reconfigure f) (execLdVxK x s) := by
  have hkey : (reconfigure f s).lowestKey = s.lowestKey := rfl
  rcases execLdVxK_cases x s with ⟨k, h, hs⟩ | ⟨h, hs⟩
  · rw [hs, execLdVxK, hkey, h]
    rfl
  · rw [hs, execLdVxK, hkey, h]
    rfl

theorem execSkp_reconfigure (x : Reg) :
    execSkp x (reconfigure f s) = mapState (reconfigure f) (execSkp x s) :=
  withKey_reconfigure f s _ fun _ => rfl

theorem execSknp_reconfigure (x : Reg) :
    execSknp x (reconfigure f s) = mapState (reconfigure f) (execSknp x s) :=
  withKey_reconfigure f s _ fun _ => rfl

theorem execDrw_reconfigure (x y : Reg) (n : Nibble) :
    execDrw x y n (reconfigure f s) = mapState (reconfigure f) (execDrw x y n s) :=
  withBlock_reconfigure f s _ rfl

theorem execLdB_reconfigure (x : Reg) :
    execLdB x (reconfigure f s) = mapState (reconfigure f) (execLdB x s) :=
  withBlock_reconfigure f s _ rfl

theorem execLdMemVx_reconfigure (x : Reg) :
    execLdMemVx x (reconfigure f s) = mapState (reconfigure f) (execLdMemVx x s) :=
  withBlock_reconfigure f s _ rfl

theorem execLdVxMem_reconfigure (x : Reg) :
    execLdVxMem x (reconfigure f s) = mapState (reconfigure f) (execLdVxMem x s) := by
  refine withBlock_reconfigure f s _ ?_
  rw [readBlock_reconfigure, writeRegs_reconfigure, advance_reconfigure]
  rfl

end

/-- A change of the configuration that keeps the parameter an instruction reads, if it reads one, passes through the
instruction: the two shifts read SHIFT_VARIANT, JP V0 reads JUMP_VARIANT, LD F reads FONT_BASE, and every other
instruction reads none. -/
theorem exec_reconfigure (f : Config → Config) (i : Instr) (s : State)
    (hshift : ∀ x y, i = .shr x y ∨ i = .shl x y → (f s.config).shiftVariant = s.config.shiftVariant)
    (hjump : ∀ x nnn, i = .jpV0 x nnn → (f s.config).jumpVariant = s.config.jumpVariant)
    (hfont : ∀ x, i = .ldF x → (f s.config).fontBase = s.config.fontBase) :
    exec i (reconfigure f s) = mapState (reconfigure f) (exec i s) := by
  cases i with
  | shr x y =>
    simp only [exec, execShr, shiftSource_reconfigure f s x y (hshift x y (.inl rfl))]
    rfl
  | shl x y =>
    simp only [exec, execShl, shiftSource_reconfigure f s x y (hshift x y (.inr rfl))]
    rfl
  | jpV0 x nnn =>
    simp only [exec, execJpV0, jumpOffset_reconfigure f s x (hjump x nnn rfl)]
    rfl
  | ldF x =>
    simp only [exec, execLdF, glyphAddr_reconfigure f s _ (hfont x rfl)]
    rfl
  | ret => exact execRet_reconfigure f s
  | call nnn => exact execCall_reconfigure f s nnn
  | skp x => exact execSkp_reconfigure f s x
  | sknp x => exact execSknp_reconfigure f s x
  | ldVxK x => exact execLdVxK_reconfigure f s x
  | drw x y n => exact execDrw_reconfigure f s x y n
  | ldB x => exact execLdB_reconfigure f s x
  | ldMemVx x => exact execLdMemVx_reconfigure f s x
  | ldVxMem x => exact execLdVxMem_reconfigure f s x
  | _ => rfl

theorem exec_withShift (i : Instr) (s : State) (u : Variant) (hi : ∀ x y, i ≠ .shr x y ∧ i ≠ .shl x y) :
    exec i (withShift u s) = mapState (withShift u) (exec i s) := by
  rw [withShift_eq_reconfigure]
  refine exec_reconfigure _ i s (fun x y h => ?_) (fun _ _ _ => rfl) (fun _ _ => rfl)
  exact absurd h (not_or.2 (hi x y))

theorem exec_withJump (i : Instr) (s : State) (u : Variant) (hi : ∀ x nnn, i ≠ .jpV0 x nnn) :
    exec i (withJump u s) = mapState (withJump u) (exec i s) := by
  rw [withJump_eq_reconfigure]
  exact exec_reconfigure _ i s (fun _ _ _ => rfl) (fun x nnn h => absurd h (hi x nnn)) (fun _ _ => rfl)

/-- A machine with 2 in V[2] and 0 in every other register: V[1] and V[2] shift to different bytes, and V[0] and V[2] are
different offsets. -/
def variantWitness : State := State.reset.writeV 0x2 0x02

/-- Settles O45: the clauses on what a variant leaves alone are one lemma on changes of the configuration, and one state
shows that each variant matters to its own forms. -/
theorem variantsMatterOnlyToTheirForms : Obligations.VariantsMatterOnlyToTheirForms := by
  refine ⟨fun s c => ?_, exec_withShift, exec_withJump, ?_, ?_, ?_⟩
  · exact congrArg (Option.map decodeWord) (fetch_reconfigure (fun _ => c) s)
  · exact ⟨variantWitness, _, _, rfl, rfl, by decide⟩
  · exact ⟨variantWitness, _, _, rfl, rfl, by decide⟩
  · exact ⟨variantWitness, _, _, rfl, rfl, by decide⟩

end Sys2Proof.Proofs
end

section
/-!
The skips on an immediate (R103, R104): the words they are decoded from, and that a skip moves PC alone (R110).
-/

namespace Sys2Proof.Proofs

open Sys2Proof Sys2Proof.Machine Sys2Proof.Claims

/-- A 3XNN word is a SE with an immediate (R103). -/
theorem decodeWord_wordFXNN_seImm (x : Reg) (nn : Byte) : decodeWord (wordFXNN 0x3 x nn) = .ok (.seImm x nn) := by
  simp [decodeWord]

/-- A 4XNN word is a SNE with an immediate (R104). -/
theorem decodeWord_wordFXNN_sneImm (x : Reg) (nn : Byte) : decodeWord (wordFXNN 0x4 x nn) = .ok (.sneImm x nn) := by
  simp [decodeWord]

theorem sameExcept_pc_skipIf (s : State) (c : Bool) : s.sameExcept [.pc] (s.skipIf c) := by
  intro f hf
  cases f with
  | pc => simp at hf
  | _ => simp [Field.same]

/-- An instruction that ends in `skipIf` skips on the condition its test decides. -/
theorem skips_of_exec_eq_skipIf {i : Instr} {s : State} {c : Bool} {cond : Prop}
    (hexec : exec i s = .next (s.skipIf c)) (hc : c = true ↔ cond) : Skips i s cond := by
  refine ⟨_, hexec, fun hmet => ?_, fun hunmet => ?_, sameExcept_pc_skipIf s c⟩
  · rw [State.skipIf_pc, if_pos (hc.2 hmet)]
  · rw [State.skipIf_pc, if_neg (mt hc.1 hunmet)]

/-- Settles O15: both instructions end in `skipIf`, with the test for equality and the one for inequality. -/
theorem immediateSkips : Obligations.ImmediateSkips := by
  intro x nn s
  exact ⟨decodeWord_wordFXNN_seImm x nn, skips_of_exec_eq_skipIf rfl beq_iff_eq,
    decodeWord_wordFXNN_sneImm x nn, skips_of_exec_eq_skipIf rfl bne_iff_ne⟩

end Sys2Proof.Proofs
end

section
/-!
Loads and sums with an immediate (R120 to R122): the words they are decoded from, and that a destination write followed by
the advance of PC changes that destination and PC alone.
-/

namespace Sys2Proof.Proofs

open Sys2Proof Sys2Proof.Machine Sys2Proof.Claims

/-- A 6XNN word is a LD with an immediate (R120). -/
theorem decodeWord_wordFXNN_ldImm (x : Reg) (nn : Byte) : decodeWord (wordFXNN 0x6 x nn) = .ok (.ldImm x nn) := by
  simp [decodeWord]

/-- A 7XNN word is an ADD with an immediate (R121). -/
theorem decodeWord_wordFXNN_addImm (x : Reg) (nn : Byte) : decodeWord (wordFXNN 0x7 x nn) = .ok (.addImm x nn) := by
  simp [decodeWord]

/-- An ANNN word is a LD I (R122). -/
theorem decodeWord_wordFNNN_ldI (nnn : Addr) : decodeWord (wordFNNN 0xA nnn) = .ok (.ldI nnn) := by
  simp [decodeWord]

theorem sameExcept_v_pc_writeV_advance (s : State) (x : Reg) (b : Byte) :
    s.sameExcept [.v, .pc] (s.writeV x b).advance := by
  intro f hf
  cases f with
  | v | pc => simp at hf
  | _ => simp [Field.same]

theorem sameExcept_i_pc_setI_advance (s : State) (w : Word) : s.sameExcept [.i, .pc] (s.setI w).advance := by
  intro f hf
  cases f with
  | i | pc => simp at hf
  | _ => simp [Field.same]

/-- An instruction that ends in a write to V[X] and the advance of PC writes that register alone (R21, R22). -/
theorem writesRegister_of_exec_eq_writeV {w : Word} {i : Instr} {s : State} {x : Reg} {b : Byte}
    (hdecode : decodeWord w = .ok i) (hexec : exec i s = .next (s.writeV x b).advance) : WritesRegister w i s x b := by
  refine ⟨hdecode, _, hexec, ?_, fun y hy => ?_, rfl, sameExcept_v_pc_writeV_advance s x b⟩
  · rw [State.advance_readV, State.readV_writeV_same]
  · rw [State.advance_readV, State.readV_writeV_of_ne s b hy]

/-- The wrapped sum of two bytes is their sum as numbers, taken mod 256 (R10). -/
theorem byte_add_eq_ofNat (a b : Byte) : a + b = BitVec.ofNat 8 ((a.toNat + b.toNat) % 256) := by
  apply BitVec.eq_of_toNat_eq
  simp

/-- Settles O19: both instructions end in one register write, of the immediate and of the wrapped sum. -/
theorem loadAndAddImmediate : Obligations.LoadAndAddImmediate := by
  intro x nn s
  refine ⟨writesRegister_of_exec_eq_writeV (decodeWord_wordFXNN_ldImm x nn) rfl, ?_⟩
  rw [← byte_add_eq_ofNat]
  exact writesRegister_of_exec_eq_writeV (decodeWord_wordFXNN_addImm x nn) rfl

/-- Settles O20: the instruction ends in a write to I, and widening NNN to 16 bits keeps its value. -/
theorem loadAddressRegister : Obligations.LoadAddressRegister := by
  intro nnn s
  exact ⟨decodeWord_wordFNNN_ldI nnn, _, rfl, zextAddr_toNat nnn, rfl, sameExcept_i_pc_setI_advance s _⟩

end Sys2Proof.Proofs
end

section
/-!
Copy and bitwise logic between registers (R132 to R135): the words they are decoded from, and the bitwise operations on
bytes as the ones on their numbers.
-/

namespace Sys2Proof.Proofs

open Sys2Proof Sys2Proof.Machine Sys2Proof.Claims

/-- Family 8 is decoded by N (R75). -/
theorem decodeWord_wordFXYN_family8 (x y : Reg) (n : Nibble) :
    decodeWord (wordFXYN 0x8 x y n) = decodeFamily8 (wordFXYN 0x8 x y n) := by
  simp [decodeWord]

/-- An 8XY0 word is a copy (R132). -/
theorem decodeWord_wordFXYN_ldReg (x y : Reg) : decodeWord (wordFXYN 0x8 x y 0x0) = .ok (.ldReg x y) := by
  rw [decodeWord_wordFXYN_family8]
  simp [decodeFamily8]

/-- An 8XY1 word is an OR (R133). -/
theorem decodeWord_wordFXYN_orReg (x y : Reg) : decodeWord (wordFXYN 0x8 x y 0x1) = .ok (.orReg x y) := by
  rw [decodeWord_wordFXYN_family8]
  simp [decodeFamily8]

/-- An 8XY2 word is an AND (R134). -/
theorem decodeWord_wordFXYN_andReg (x y : Reg) : decodeWord (wordFXYN 0x8 x y 0x2) = .ok (.andReg x y) := by
  rw [decodeWord_wordFXYN_family8]
  simp [decodeFamily8]

/-- An 8XY3 word is a XOR (R135). -/
theorem decodeWord_wordFXYN_xorReg (x y : Reg) : decodeWord (wordFXYN 0x8 x y 0x3) = .ok (.xorReg x y) := by
  rw [decodeWord_wordFXYN_family8]
  simp [decodeFamily8]

/-- Settles O22: each of the four ends in one register write. The statement writes the bitwise results on numbers, and
those are the operations on the bytes. -/
theorem copyAndLogic : Obligations.CopyAndLogic := by
  intro x y s
  simp only [BitVec.ofNat_or, BitVec.ofNat_and, BitVec.ofNat_xor, BitVec.ofNat_toNat, BitVec.setWidth_eq]
  exact ⟨writesRegister_of_exec_eq_writeV (decodeWord_wordFXYN_ldReg x y) rfl,
    writesRegister_of_exec_eq_writeV (decodeWord_wordFXYN_orReg x y) rfl,
    writesRegister_of_exec_eq_writeV (decodeWord_wordFXYN_andReg x y) rfl,
    writesRegister_of_exec_eq_writeV (decodeWord_wordFXYN_xorReg x y) rfl⟩

end Sys2Proof.Proofs
end

section
/-!
Clearing the display (R150, R152): a display write followed by the advance of PC changes the display and PC alone.
-/

namespace Sys2Proof.Proofs

open Sys2Proof Sys2Proof.Machine Sys2Proof.Claims

theorem sameExcept_disp_pc_setDisp_advance (s : State) (d : Display) :
    s.sameExcept [.disp, .pc] (s.setDisp d).advance := by
  intro f hf
  cases f with
  | disp | pc => simp at hf
  | _ => simp [Field.same]

/-- Settles O26: the instruction ends in one display write, of the cleared display. -/
theorem clearDisplay : Obligations.ClearDisplay := by
  intro s
  have hcleared : ∀ px py, (s.setDisp Display.clear).advance.disp.pixel px py = false := fun px py => by
    rw [State.advance_disp, State.setDisp_disp, Display.pixel_clear]
  exact ⟨rfl, _, rfl, hcleared, rfl, sameExcept_disp_pc_setDisp_advance s Display.clear⟩

end Sys2Proof.Proofs
end

section
/-!
Transfers between a register and a timer (R180 to R182): the words they are decoded from, and that a timer write followed
by the advance of PC changes that timer and PC alone.
-/

namespace Sys2Proof.Proofs

open Sys2Proof Sys2Proof.Machine Sys2Proof.Claims

/-- Family F is decoded by NN (R75). -/
theorem decodeWord_wordFXNN_familyF (x : Reg) (nn : Byte) :
    decodeWord (wordFXNN 0xF x nn) = decodeFamilyF (wordFXNN 0xF x nn) := by
  simp [decodeWord]

/-- An FX07 word is a read of DT (R180). -/
theorem decodeWord_wordFXNN_ldVxDt (x : Reg) : decodeWord (wordFXNN 0xF x 0x07) = .ok (.ldVxDt x) := by
  rw [decodeWord_wordFXNN_familyF]
  simp [decodeFamilyF]

/-- An FX15 word is a write of DT (R181). -/
theorem decodeWord_wordFXNN_ldDtVx (x : Reg) : decodeWord (wordFXNN 0xF x 0x15) = .ok (.ldDtVx x) := by
  rw [decodeWord_wordFXNN_familyF]
  simp [decodeFamilyF]

/-- An FX18 word is a write of ST (R182). -/
theorem decodeWord_wordFXNN_ldStVx (x : Reg) : decodeWord (wordFXNN 0xF x 0x18) = .ok (.ldStVx x) := by
  rw [decodeWord_wordFXNN_familyF]
  simp [decodeFamilyF]

theorem sameExcept_dt_pc_setDt_advance (s : State) (b : Byte) : s.sameExcept [.dt, .pc] (s.setDt b).advance := by
  intro f hf
  cases f with
  | dt | pc => simp at hf
  | _ => simp [Field.same]

theorem sameExcept_st_pc_setSt_advance (s : State) (b : Byte) : s.sameExcept [.st, .pc] (s.setSt b).advance := by
  intro f hf
  cases f with
  | st | pc => simp at hf
  | _ => simp [Field.same]

/-- Settles O30: the first instruction ends in one register write, of DT, and the other two in a write to their timer, of
V[X]. -/
theorem timerRegisterTransfers : Obligations.TimerRegisterTransfers := by
  intro x s
  exact ⟨writesRegister_of_exec_eq_writeV (decodeWord_wordFXNN_ldVxDt x) rfl,
    ⟨decodeWord_wordFXNN_ldDtVx x, _, rfl, rfl, rfl, sameExcept_dt_pc_setDt_advance s _⟩,
    ⟨decodeWord_wordFXNN_ldStVx x, _, rfl, rfl, rfl, sameExcept_st_pc_setSt_advance s _⟩⟩

end Sys2Proof.Proofs
end

section
/-!
Loading a program (R234): an unloaded machine accepts every image that passes the size check, and the load changes memory,
PC and the loaded flag alone.
-/

namespace Sys2Proof.Proofs

open Sys2Proof Sys2Proof.Machine Sys2Proof.Claims

/-- An unloaded machine answers a short enough image with the machine that holds it (R234). -/
theorem loadProgram_of_unloaded {s : State} {bytes : List Byte} (hl : s.loaded = false) (hb : bytes.length ≤ 3584) :
    s.loadProgram bytes = .ok { s with mem := s.mem.writeBytes 0x200 bytes, pc := 0x200, loaded := true } := by
  rcases s.loadProgram_cases bytes with ⟨hloaded, _⟩ | ⟨_, hlong, _⟩ | ⟨_, _, hok⟩
  · rw [hl] at hloaded
    cases hloaded
  · omega
  · exact hok

theorem sameExcept_mem_pc_loaded_load (s : State) (m : Memory) (w : Word) :
    s.sameExcept [.mem, .pc, .loaded] { s with mem := m, pc := w, loaded := true } := by
  intro f hf
  cases f with
  | mem | pc | loaded => simp at hf
  | v => exact fun _ => rfl
  | _ => simp [Field.same]

/-- Settles O49: the load is a copy to 0x200 that fits, and a copy is read back inside and outside its run. -/
theorem loadProgramPlacesTheImage : Obligations.LoadProgramPlacesTheImage := by
  intro s bytes hm hl hb
  have hfit : 0x200 + bytes.length ≤ memSize := by
    rw [memSize]
    omega
  have hc : s.mem.copy 0x200 bytes = some (s.mem.writeBytes 0x200 bytes) := Memory.copy_eq_some.2 ⟨hfit, rfl⟩
  exact ⟨_, loadProgram_of_unloaded hl hb, rfl, rfl, fun _ hk => Memory.read_copy_inside hm hc hk,
    fun _ ha => Memory.read_copy_outside hm hc ha, sameExcept_mem_pc_loaded_load s _ _⟩

end Sys2Proof.Proofs
end

section
/-!
Decoding and encoding (R70 to R78): an encoded instruction is read back, a decoded word is put together again from its
fields, and the words no instruction is read from are those of R77.
-/

namespace Sys2Proof.Proofs

open Sys2Proof Sys2Proof.Machine Sys2Proof.Claims

/-! ### From instructions to words -/

/-- A 5XYN word is a SE of two registers, whatever N is (R105, R72). -/
theorem decodeWord_wordFXYN_seReg (x y : Reg) (n : Nibble) : decodeWord (wordFXYN 0x5 x y n) = .ok (.seReg x y) := by
  simp [decodeWord]

/-- A 9XYN word is a SNE of two registers, whatever N is (R106, R72). -/
theorem decodeWord_wordFXYN_sneReg (x y : Reg) (n : Nibble) : decodeWord (wordFXYN 0x9 x y n) = .ok (.sneReg x y) := by
  simp [decodeWord]

/-- A BNNN word is a JP V0 whose X is the top nibble of NNN (R107). -/
theorem decodeWord_wordFNNN_jpV0 (nnn : Addr) : decodeWord (wordFNNN 0xB nnn) = .ok (.jpV0 (regOfAddr nnn) nnn) := by
  simp [decodeWord]

/-- Family E is decoded by NN (R75). -/
theorem decodeWord_wordFXNN_familyE (x : Reg) (nn : Byte) :
    decodeWord (wordFXNN 0xE x nn) = decodeFamilyE (wordFXNN 0xE x nn) := by
  simp [decodeWord]

/-- The word of a well-formed instruction decodes to it, family by family (R76). -/
theorem decodeWord_encode (i : Instr) (hi : i.wellFormed = true) : decodeWord (encode i) = .ok i := by
  cases i with
  | cls | ret => rfl
  | jp nnn | call nnn | ldI nnn => simp [encode, decodeWord]
  | seImm x nn | sneImm x nn | ldImm x nn | addImm x nn | rnd x nn => simp [encode, decodeWord]
  | seReg x y => exact decodeWord_wordFXYN_seReg x y 0x0
  | sneReg x y => exact decodeWord_wordFXYN_sneReg x y 0x0
  | drw x y n => simp [encode, decodeWord]
  | jpV0 x nnn =>
    have hx : x = regOfAddr nnn := by simpa [Instr.wellFormed] using hi
    rw [hx]
    exact decodeWord_wordFNNN_jpV0 nnn
  | ldReg x y | orReg x y | andReg x y | xorReg x y | addReg x y | sub x y | shr x y | subn x y | shl x y =>
    rw [encode, decodeWord_wordFXYN_family8]
    simp [decodeFamily8]
  | skp x | sknp x =>
    rw [encode, decodeWord_wordFXNN_familyE]
    simp [decodeFamilyE]
  | ldVxDt x | ldDtVx x | ldStVx x | addI x | ldVxK x | ldF x | ldB x | ldMemVx x | ldVxMem x =>
    rw [encode, decodeWord_wordFXNN_familyF]
    simp [decodeFamilyF]

/-- Settles O1: the bytes of a word make the word again, so the clause on bytes is the one on words. -/
theorem decodeEncodeRoundTrip : Obligations.DecodeEncodeRoundTrip := by
  intro i hi
  refine ⟨decodeWord_encode i hi, fun rest => ?_⟩
  rw [decode_bytesOfWord, decodeWord_encode i hi]
  rfl

/-- Settles O4: nineteen closed words. -/
theorem sampleWordsDecode : Obligations.SampleWordsDecode := by
  unfold Obligations.SampleWordsDecode
  decide

/-! ### From words to instructions -/

theorem wordFXYN_fields (w : Word) : wordFXYN (fieldF w) (fieldX w) (fieldY w) (fieldN w) = w := by
  apply BitVec.eq_of_getLsbD_eq
  intro k hk
  simp only [wordFXYN, fieldF, fieldX, fieldY, fieldN, BitVec.getLsbD_extractLsb', BitVec.getLsbD_append]
  interval_cases k <;> simp

theorem wordFXNN_fields (w : Word) : wordFXNN (fieldF w) (fieldX w) (fieldNN w) = w := by
  apply BitVec.eq_of_getLsbD_eq
  intro k hk
  simp only [wordFXNN, fieldF, fieldX, fieldNN, BitVec.getLsbD_extractLsb', BitVec.getLsbD_append]
  interval_cases k <;> simp

theorem wordFNNN_fields (w : Word) : wordFNNN (fieldF w) (fieldNNN w) = w := by
  apply BitVec.eq_of_getLsbD_eq
  intro k hk
  simp only [wordFNNN, fieldF, fieldNNN, BitVec.getLsbD_extractLsb', BitVec.getLsbD_append]
  interval_cases k <;> simp

/-- The X of a word is the top nibble of its NNN (R71). -/
theorem regOfAddr_fieldNNN (w : Word) : regOfAddr (fieldNNN w) = fieldX w := by
  rw [← fieldX_wordFNNN (fieldF w), wordFNNN_fields]

/-- Clearing N leaves the other three fields (R71). -/
theorem and_0xFFF0_eq_wordFXYN (w : Word) : w &&& 0xFFF0 = wordFXYN (fieldF w) (fieldX w) (fieldY w) 0x0 := by
  apply BitVec.eq_of_getLsbD_eq
  intro k hk
  simp only [wordFXYN, fieldF, fieldX, fieldY, BitVec.getLsbD_and, BitVec.getLsbD_extractLsb', BitVec.getLsbD_append]
  interval_cases k <;> simp

/-- The word is the encoding of the well-formed instruction, but for the ignored N of 5XY- and 9XY- (R72, R76). -/
def EncodesBack (w : Word) (i : Instr) : Prop :=
  i.wellFormed = true ∧
    ((∃ x y, (i = .seReg x y ∨ i = .sneReg x y) ∧ encode i = w &&& 0xFFF0) ∨
      ((∀ x y, i ≠ .seReg x y ∧ i ≠ .sneReg x y) ∧ encode i = w))

theorem encodesBack_of_encode_eq {w : Word} {i : Instr} (hwf : i.wellFormed = true)
    (hi : ∀ x y, i ≠ .seReg x y ∧ i ≠ .sneReg x y) (henc : encode i = w) : EncodesBack w i :=
  ⟨hwf, .inr ⟨hi, henc⟩⟩

theorem encodesBack_seReg {w : Word} (hF : fieldF w = 0x5) : EncodesBack w (.seReg (fieldX w) (fieldY w)) :=
  ⟨rfl, .inl ⟨_, _, .inl rfl, by rw [and_0xFFF0_eq_wordFXYN, hF, encode]⟩⟩

theorem encodesBack_sneReg {w : Word} (hF : fieldF w = 0x9) : EncodesBack w (.sneReg (fieldX w) (fieldY w)) :=
  ⟨rfl, .inl ⟨_, _, .inr rfl, by rw [and_0xFFF0_eq_wordFXYN, hF, encode]⟩⟩

theorem wordFNNN_eq_of_fieldF {w : Word} {f : BitVec 4} (hF : fieldF w = f) : wordFNNN f (fieldNNN w) = w :=
  hF ▸ wordFNNN_fields w

theorem wordFXNN_eq_of_fieldF {w : Word} {f : BitVec 4} (hF : fieldF w = f) :
    wordFXNN f (fieldX w) (fieldNN w) = w :=
  hF ▸ wordFXNN_fields w

theorem wordFXNN_eq_of_fields {w : Word} {f : BitVec 4} {nn : Byte} (hF : fieldF w = f) (hNN : fieldNN w = nn) :
    wordFXNN f (fieldX w) nn = w :=
  hNN ▸ wordFXNN_eq_of_fieldF hF

theorem wordFXYN_eq_of_fields {w : Word} {f : BitVec 4} {n : Nibble} (hF : fieldF w = f)
    (hN : (fieldN w).toNat = n.toNat) : wordFXYN f (fieldX w) (fieldY w) n = w :=
  hF ▸ BitVec.eq_of_toNat_eq hN ▸ wordFXYN_fields w

theorem encodesBack_of_decodeFamily0 {w : Word} {i : Instr} (h : decodeFamily0 w = .ok i) : EncodesBack w i := by
  unfold decodeFamily0 at h
  split_ifs at h with hw hw <;> cases h <;> exact encodesBack_of_encode_eq rfl (by simp) hw.symm

theorem encodesBack_of_decodeFamily8 {w : Word} {i : Instr} (hF : fieldF w = 0x8) (h : decodeFamily8 w = .ok i) :
    EncodesBack w i := by
  unfold decodeFamily8 at h
  split at h <;> cases h <;> exact encodesBack_of_encode_eq rfl (by simp) (wordFXYN_eq_of_fields hF ‹_›)

theorem encodesBack_of_decodeFamilyE {w : Word} {i : Instr} (hF : fieldF w = 0xE) (h : decodeFamilyE w = .ok i) :
    EncodesBack w i := by
  unfold decodeFamilyE at h
  split_ifs at h <;> cases h <;> exact encodesBack_of_encode_eq rfl (by simp) (wordFXNN_eq_of_fields hF ‹_›)

theorem encodesBack_of_decodeFamilyF {w : Word} {i : Instr} (hF : fieldF w = 0xF) (h : decodeFamilyF w = .ok i) :
    EncodesBack w i := by
  unfold decodeFamilyF at h
  split_ifs at h <;> cases h <;> exact encodesBack_of_encode_eq rfl (by simp) (wordFXNN_eq_of_fields hF ‹_›)

theorem encodesBack_of_decodeWord {w : Word} {i : Instr} (h : decodeWord w = .ok i) : EncodesBack w i := by
  unfold decodeWord at h
  have hlt := (fieldF w).isLt
  have hF {f : BitVec 4} (hf : (fieldF w).toNat = f.toNat) : fieldF w = f := BitVec.eq_of_toNat_eq hf
  split at h
  case h_1 => exact encodesBack_of_decodeFamily0 h
  case h_9 hf => exact encodesBack_of_decodeFamily8 (hF hf) h
  case h_15 hf => exact encodesBack_of_decodeFamilyE (hF hf) h
  case h_16 =>
    have hf : (fieldF w).toNat = 15 := by grind
    exact encodesBack_of_decodeFamilyF (hF hf) h
  all_goals cases h
  case h_2 hf | h_3 hf | h_11 hf => exact encodesBack_of_encode_eq rfl (by simp) (wordFNNN_eq_of_fieldF (hF hf))
  case h_4 hf | h_5 hf | h_7 hf | h_8 hf | h_13 hf =>
    exact encodesBack_of_encode_eq rfl (by simp) (wordFXNN_eq_of_fieldF (hF hf))
  case h_6 hf => exact encodesBack_seReg (hF hf)
  case h_10 hf => exact encodesBack_sneReg (hF hf)
  case h_12 hf =>
    have hwf : (Instr.jpV0 (fieldX w) (fieldNNN w)).wellFormed = true := by
      simp [Instr.wellFormed, regOfAddr_fieldNNN]
    exact encodesBack_of_encode_eq hwf (by simp) (wordFNNN_eq_of_fieldF (hF hf))
  case h_14 hf => exact encodesBack_of_encode_eq rfl (by simp) (wordFXYN_eq_of_fields (hF hf) rfl)

/-- Settles O2, family by family. -/
theorem decodedWordIsItsEncodingButForIgnoredN : Obligations.DecodedWordIsItsEncodingButForIgnoredN :=
  fun _ _ => encodesBack_of_decodeWord

/-! ### Words no instruction is read from -/

theorem fieldF_toNat (w : Word) : (fieldF w).toNat = w.toNat / 0x1000 := by
  have := w.isLt
  simp only [fieldF, BitVec.extractLsb'_toNat, Nat.shiftRight_eq_div_pow]
  omega

theorem fieldNN_toNat (w : Word) : (fieldNN w).toNat = w.toNat % 0x100 := by
  simp [fieldNN, BitVec.extractLsb'_toNat]

theorem fieldN_toNat (w : Word) : (fieldN w).toNat = w.toNat % 0x10 := by
  simp [fieldN, BitVec.extractLsb'_toNat]

theorem fieldNN_eq_iff (w : Word) (nn : Byte) : fieldNN w = nn ↔ w.toNat % 0x100 = nn.toNat := by
  rw [← fieldNN_toNat, BitVec.toNat_inj]

theorem decodeFamily0_isError (w : Word) :
    (∃ e, decodeFamily0 w = .error e) ↔ w.toNat ≠ 0x00E0 ∧ w.toNat ≠ 0x00EE := by
  unfold decodeFamily0
  have h (v : Word) : w = v ↔ w.toNat = v.toNat := BitVec.toNat_inj.symm
  split_ifs with hw hw' <;> simp_all

theorem decodeFamily8_isError (w : Word) :
    (∃ e, decodeFamily8 w = .error e) ↔ w.toNat % 0x10 ∈ [0x8, 0x9, 0xA, 0xB, 0xC, 0xD, 0xF] := by
  have hlt := (fieldN w).isLt
  rw [← fieldN_toNat]
  unfold decodeFamily8
  split <;> simp_all
  -- The last arm: the values that select no form are those of the list.
  omega

theorem decodeFamilyE_isError (w : Word) : (∃ e, decodeFamilyE w = .error e) ↔ w.toNat % 0x100 ∉ [0x9E, 0xA1] := by
  unfold decodeFamilyE
  simp only [fieldNN_eq_iff]
  split_ifs <;> simp_all

theorem decodeFamilyF_isError (w : Word) :
    (∃ e, decodeFamilyF w = .error e) ↔
      w.toNat % 0x100 ∉ [0x07, 0x0A, 0x15, 0x18, 0x1E, 0x29, 0x33, 0x55, 0x65] := by
  unfold decodeFamilyF
  simp only [fieldNN_eq_iff]
  split_ifs <;> simp_all

/-- The words no instruction is read from are those of R77. -/
theorem decodeWord_isError (w : Word) : (∃ e, decodeWord w = .error e) ↔ unsupportedWord w := by
  have hlt := (fieldF w).isLt
  simp only [unsupportedWord]
  rw [← fieldF_toNat, ← decodeFamily0_isError, ← decodeFamily8_isError, ← decodeFamilyE_isError, ← decodeFamilyF_isError]
  unfold decodeWord
  split <;> simp_all
  -- The last arm: family F is the one value of the field that is left.
  omega

end Sys2Proof.Proofs
end

section
/-!
How the execution of an instruction can end without a next state (R200 to R210): the instructions that check something are
the only ones that can fault, and none is refused.
-/

namespace Sys2Proof.Proofs

open Sys2Proof Sys2Proof.Machine Sys2Proof.Claims

/-- Settles O9: an instruction that checks nothing answers a next state, and for each of the others its inversion lemma
names its one fault. -/
theorem execFaultsOnlyWhereTheRulesSay : Obligations.ExecFaultsOnlyWhereTheRulesSay := by
  intro i s f h
  cases i with
  | ret =>
    obtain ⟨_, he⟩ | ⟨hsp, he⟩ := execRet_cases s
    · cases he.symm.trans h
    · cases he.symm.trans h
      exact ⟨rfl, hsp, rfl⟩
  | call nnn =>
    obtain ⟨_, he⟩ | ⟨hsp, he⟩ := execCall_cases nnn s
    · cases he.symm.trans h
    · cases he.symm.trans h
      exact ⟨nnn, rfl, hsp, rfl⟩
  | skp x =>
    obtain ⟨_, he⟩ | ⟨hk, he⟩ := execSkp_cases x s
    · cases he.symm.trans h
    · cases he.symm.trans h
      exact ⟨x, .inl rfl, rfl, by omega, rfl⟩
  | sknp x =>
    obtain ⟨_, he⟩ | ⟨hk, he⟩ := execSknp_cases x s
    · cases he.symm.trans h
    · cases he.symm.trans h
      exact ⟨x, .inr rfl, rfl, by omega, rfl⟩
  | ldVxK x => obtain ⟨_, _, he⟩ | ⟨_, he⟩ := execLdVxK_cases x s <;> cases he.symm.trans h
  | drw x y n =>
    obtain ⟨_, _, he, _⟩ | ⟨hn, hout, he⟩ := execDrw_cases x y n s
    · cases he.symm.trans h
    · cases he.symm.trans h
      exact ⟨rfl, by omega, by omega, by have := n.isLt; omega, rfl⟩
  | ldB x =>
    obtain ⟨he, _⟩ | ⟨hout, he⟩ := execLdB_cases x s
    · cases he.symm.trans h
    · cases he.symm.trans h
      exact ⟨rfl, by omega, by omega, by omega, rfl⟩
  | ldMemVx x =>
    obtain ⟨he, _⟩ | ⟨hout, he⟩ := execLdMemVx_cases x s
    · cases he.symm.trans h
    · cases he.symm.trans h
      exact ⟨rfl, by omega, by omega, by have := x.isLt; omega, rfl⟩
  | ldVxMem x =>
    obtain ⟨he, _⟩ | ⟨hout, he⟩ := execLdVxMem_cases x s
    · cases he.symm.trans h
    · cases he.symm.trans h
      exact ⟨rfl, by omega, by omega, by have := x.isLt; omega, rfl⟩
  | _ => cases h

/-- Settles O10: every inversion lemma answers a next state or a fault. -/
theorem execNeverRefuses : Obligations.ExecNeverRefuses := by
  intro i s r h
  cases i with
  | ret => obtain ⟨_, he⟩ | ⟨_, he⟩ := execRet_cases s <;> cases he.symm.trans h
  | call nnn => obtain ⟨_, he⟩ | ⟨_, he⟩ := execCall_cases nnn s <;> cases he.symm.trans h
  | skp x => obtain ⟨_, he⟩ | ⟨_, he⟩ := execSkp_cases x s <;> cases he.symm.trans h
  | sknp x => obtain ⟨_, he⟩ | ⟨_, he⟩ := execSknp_cases x s <;> cases he.symm.trans h
  | ldVxK x => obtain ⟨_, _, he⟩ | ⟨_, he⟩ := execLdVxK_cases x s <;> cases he.symm.trans h
  | drw x y n => obtain ⟨_, _, he, _⟩ | ⟨_, _, he⟩ := execDrw_cases x y n s <;> cases he.symm.trans h
  | ldB x => obtain ⟨he, _⟩ | ⟨_, he⟩ := execLdB_cases x s <;> cases he.symm.trans h
  | ldMemVx x => obtain ⟨he, _⟩ | ⟨_, he⟩ := execLdMemVx_cases x s <;> cases he.symm.trans h
  | ldVxMem x => obtain ⟨he, _⟩ | ⟨_, he⟩ := execLdVxMem_cases x s <;> cases he.symm.trans h
  | _ => cases h

end Sys2Proof.Proofs
end

section
/-!
One step (R74, R200 to R207): a fetched word decides it, after the host's moves, which change neither PC nor memory.
-/

namespace Sys2Proof.Proofs

open Sys2Proof Sys2Proof.Machine Sys2Proof.Claims

theorem step_of_fetch {s : State} {w : Word} (hl : s.loaded = true) (hf : s.fetch = some w) :
    step s = decodeExecute s.deliver w := by
  simp [step, fetchDecodeExecute, State.fetch_deliver, hl, hf]

theorem step_of_decode {s : State} {w : Word} {i : Instr} (hl : s.loaded = true) (hf : s.fetch = some w)
    (hd : decodeWord w = .ok i) : step s = exec i s.deliver := by
  rw [step_of_fetch hl hf, decodeExecute, hd]

theorem step_ne_refused {s : State} (hl : s.loaded = true) (r : Refusal) : step s ≠ .refused r := by
  intro h
  obtain ⟨hl', _⟩ | ⟨_, _, he⟩ | ⟨_, _, _, _, _, he⟩ | ⟨_, i, _, _, _, he⟩ := fetchDecodeExecute_cases s.deliver
  · rw [State.deliver_loaded, hl] at hl'
    cases hl'
  · cases he.symm.trans h
  · cases he.symm.trans h
  · exact execNeverRefuses i s.deliver r (he.symm.trans h)

/-- Settles O3: `decodeExecute` branches on the two kinds of words. -/
theorem unsupportedWordsFail : Obligations.UnsupportedWordsFail := by
  intro s w hl hf
  rw [step_of_fetch hl hf, ← decodeWord_isError]
  cases hd : decodeWord w with
  | error e => simp [decodeExecute, hd, State.raiseUnsupported]
  | ok i => simp [decodeExecute, hd]

/-- Settles O5: the host's moves leave what the fetch reads. -/
theorem stepRunsTheDecodedInstruction : Obligations.StepRunsTheDecodedInstruction :=
  fun s _ _ hl hf hd => ⟨s.fetch_deliver.trans hf, step_of_decode hl hf hd⟩

/-- Settles O6: the bounds check of the fetch decides which of the two a step is. -/
theorem fetchIsBigEndianAndBounded : Obligations.FetchIsBigEndianAndBounded := by
  intro s hl
  refine ⟨fun hin => ⟨_, (s.fetch_eq_some _).2 ⟨hin, rfl⟩, s.wordAt_toNat _⟩, fun hout => ?_⟩
  have hf : s.fetch = none := s.fetch_eq_none.2 hout
  simp [step, fetchDecodeExecute, State.fetch_deliver, hl, hf, State.raiseFetchOutOfBounds]

/-- Settles O7: both operations look at the loaded flag first. -/
theorem refusedUntilLoadedOnce : Obligations.RefusedUntilLoadedOnce := by
  intro s
  constructor
  · intro hl
    simp [step, fetchDecodeExecute, hl]
  · intro hl bytes
    simp [State.loadProgram, hl]

/-- Settles O8: a step faults in the fetch, in the decoder or in the instruction, and O9 says how an instruction does. -/
theorem stepFaultsArePrecise : Obligations.StepFaultsArePrecise := by
  intro s f h
  obtain ⟨_, he⟩ | ⟨_, _, he⟩ | ⟨_, _, _, _, _, he⟩ | ⟨w, i, _, hf, hd, he⟩ := fetchDecodeExecute_cases s.deliver
  · cases he.symm.trans h
  · cases he.symm.trans h
    exact .inr ⟨by simp, rfl⟩
  · cases he.symm.trans h
    exact .inr ⟨by simp, rfl⟩
  · have hfault := execFaultsOnlyWhereTheRulesSay i s.deliver f (he.symm.trans h)
    cases f with
    | stackOverflow r =>
      obtain ⟨nnn, rfl, hsp, rfl⟩ := hfault
      exact .inl ⟨w, nnn, s.fetch_deliver ▸ hf, hd, by simpa using hsp, rfl⟩
    | stackUnderflow r => exact .inr ⟨by simp, hfault.2.2⟩
    | unsupportedOperation r => exact hfault.elim
    | fetchOutOfBounds pc r => exact hfault.elim
    | dataOutOfBounds a r =>
      obtain ⟨_, _, _, _, hr⟩ := hfault
      exact .inr ⟨by simp, hr⟩
    | keyIndexOutOfRange k r =>
      obtain ⟨_, _, _, _, hr⟩ := hfault
      exact .inr ⟨by simp, hr⟩

/-- Settles O60: a loaded machine is not refused, and every other answer has its code and kind. -/
theorem everyStepEndsInOneOutcomeOfTheTable : Obligations.EveryStepEndsInOneOutcomeOfTheTable := by
  intro s hl
  cases hstep : step s with
  | next t => exact ⟨_, _, rfl, rfl, rfl, rfl⟩
  | fault f => cases f <;> exact ⟨_, _, rfl, rfl, rfl, rfl⟩
  | refused r => exact (step_ne_refused hl r hstep).elim

end Sys2Proof.Proofs
end

section
/-!
Frames (R22 to R33, R57): each operation adds the piece it writes to the pieces already written, and an instruction that
completes writes the pieces `writes` lists, beside PC.
-/

namespace Sys2Proof.Proofs

open Sys2Proof Sys2Proof.Machine Sys2Proof.Claims

theorem same_trans {f : Field} {s t u : State} (h : f.same s t) (h' : f.same t u) : f.same s u := by
  cases f with
  | mem | v => exact fun a => Eq.trans (h' a) (h a)
  | _ => exact Eq.trans h' h

theorem sameExcept_refl (s : State) : s.sameExcept [] s := by
  intro f _
  cases f with
  | mem | v => exact fun _ => rfl
  | _ => rfl

theorem sameExcept_mono {s t : State} {fs gs : List Field} (h : s.sameExcept fs t) (hsub : fs ⊆ gs) :
    s.sameExcept gs t :=
  fun f hf => h f fun hmem => hf (hsub hmem)

/-- What one more operation writes is added to what was written before it. -/
theorem sameExcept_append {s t u : State} {fs gs : List Field} (h : s.sameExcept fs t) (h' : t.sameExcept gs u) :
    s.sameExcept (gs ++ fs) u := by
  intro f hf
  rw [List.mem_append, not_or] at hf
  exact same_trans (h f hf.2) (h' f hf.1)

section

variable {s t : State} {fs : List Field} (h : s.sameExcept fs t)

include h

theorem sameExcept_advance : s.sameExcept (.pc :: fs) t.advance :=
  sameExcept_append h (gs := [.pc]) fun f hf => by cases f <;> simp_all [Field.same]

theorem sameExcept_jumpTo (w : Word) : s.sameExcept (.pc :: fs) (t.jumpTo w) :=
  sameExcept_append h (gs := [.pc]) fun f hf => by cases f <;> simp_all [Field.same]

theorem sameExcept_skipIf (c : Bool) : s.sameExcept (.pc :: fs) (t.skipIf c) :=
  sameExcept_append h (sameExcept_pc_skipIf t c)

theorem sameExcept_writeV (x : Reg) (b : Byte) : s.sameExcept (.v :: fs) (t.writeV x b) :=
  sameExcept_append h (gs := [.v]) fun f hf => by cases f <;> simp_all [Field.same]

theorem sameExcept_writeVFlag (x : Reg) (b flag : Byte) : s.sameExcept (.v :: fs) (t.writeVFlag x b flag) :=
  sameExcept_append h (gs := [.v]) fun f hf => by cases f <;> simp_all [Field.same]

theorem sameExcept_writeRegs (bytes : List Byte) : s.sameExcept (.v :: fs) (t.writeRegs bytes) :=
  sameExcept_append h (gs := [.v]) fun f hf => by cases f <;> simp_all [Field.same]

theorem sameExcept_writeBlock (bytes : List Byte) : s.sameExcept (.mem :: fs) (t.writeBlock bytes) :=
  sameExcept_append h (gs := [.mem]) fun f hf => by cases f <;> simp_all [Field.same]

theorem sameExcept_setI (w : Word) : s.sameExcept (.i :: fs) (t.setI w) :=
  sameExcept_append h (gs := [.i]) fun f hf => by cases f <;> simp_all [Field.same]

theorem sameExcept_setDt (b : Byte) : s.sameExcept (.dt :: fs) (t.setDt b) :=
  sameExcept_append h (gs := [.dt]) fun f hf => by cases f <;> simp_all [Field.same]

theorem sameExcept_setSt (b : Byte) : s.sameExcept (.st :: fs) (t.setSt b) :=
  sameExcept_append h (gs := [.st]) fun f hf => by cases f <;> simp_all [Field.same]

theorem sameExcept_setDisp (d : Display) : s.sameExcept (.disp :: fs) (t.setDisp d) :=
  sameExcept_append h (gs := [.disp]) fun f hf => by cases f <;> simp_all [Field.same]

theorem sameExcept_countDraw : s.sameExcept (.rndCount :: fs) t.countDraw :=
  sameExcept_append h (gs := [.rndCount]) fun f hf => by cases f <;> simp_all [Field.same]

theorem sameExcept_setStack (n : Fin 17) (k : Vector Word 16) : s.sameExcept (.sp :: .stack :: fs) (t.setStack n k) :=
  sameExcept_append h (gs := [.sp, .stack]) fun f hf => by cases f <;> simp_all [Field.same]

/-- A pop writes SP alone: the entry stays where it is (R30). -/
theorem sameExcept_setStack_stack (n : Fin 17) : s.sameExcept (.sp :: fs) (t.setStack n t.stack) :=
  sameExcept_append h (gs := [.sp]) fun f hf => by cases f <;> simp_all [Field.same]

end

/-- Settles O40: every next state is made by operations, and each of them has its frame. -/
theorem eachInstructionWritesOnlyItsFields : Obligations.EachInstructionWritesOnlyItsFields := by
  intro i s t h
  have hrefl := sameExcept_refl s
  cases i with
  | ret =>
    obtain ⟨_, he⟩ | ⟨_, he⟩ := execRet_cases s <;> cases he.symm.trans h
    exact sameExcept_jumpTo (sameExcept_setStack_stack hrefl _) _
  | call nnn =>
    obtain ⟨_, he⟩ | ⟨_, he⟩ := execCall_cases nnn s <;> cases he.symm.trans h
    exact sameExcept_jumpTo (sameExcept_setStack hrefl _ _) _
  | skp x =>
    obtain ⟨_, he⟩ | ⟨_, he⟩ := execSkp_cases x s <;> cases he.symm.trans h
    exact sameExcept_skipIf hrefl _
  | sknp x =>
    obtain ⟨_, he⟩ | ⟨_, he⟩ := execSknp_cases x s <;> cases he.symm.trans h
    exact sameExcept_skipIf hrefl _
  | ldVxK x =>
    obtain ⟨_, _, he⟩ | ⟨_, he⟩ := execLdVxK_cases x s <;> cases he.symm.trans h
    · exact sameExcept_advance (sameExcept_writeV hrefl _ _)
    · exact sameExcept_mono hrefl (List.nil_subset _)
  | drw x y n =>
    obtain ⟨_, _, he, _⟩ | ⟨_, _, he⟩ := execDrw_cases x y n s <;> cases he.symm.trans h
    exact sameExcept_mono (sameExcept_advance (sameExcept_writeV (sameExcept_setDisp hrefl _) _ _)) (by simp [writes])
  | ldB x =>
    obtain ⟨he, _⟩ | ⟨_, he⟩ := execLdB_cases x s <;> cases he.symm.trans h
    exact sameExcept_advance (sameExcept_writeBlock hrefl _)
  | ldMemVx x =>
    obtain ⟨he, _⟩ | ⟨_, he⟩ := execLdMemVx_cases x s <;> cases he.symm.trans h
    exact sameExcept_advance (sameExcept_writeBlock hrefl _)
  | ldVxMem x =>
    obtain ⟨he, _⟩ | ⟨_, he⟩ := execLdVxMem_cases x s <;> cases he.symm.trans h
    exact sameExcept_advance (sameExcept_writeRegs hrefl _)
  | addI x =>
    cases h
    exact sameExcept_mono (sameExcept_advance (sameExcept_writeV (sameExcept_setI hrefl _) _ _)) (by simp [writes])
  | rnd x nn =>
    cases h
    exact sameExcept_advance (sameExcept_writeV (sameExcept_countDraw hrefl) _ _)
  | cls =>
    cases h
    exact sameExcept_advance (sameExcept_setDisp hrefl _)
  | ldI nnn | ldF x =>
    cases h
    exact sameExcept_advance (sameExcept_setI hrefl _)
  | ldDtVx x =>
    cases h
    exact sameExcept_advance (sameExcept_setDt hrefl _)
  | ldStVx x =>
    cases h
    exact sameExcept_advance (sameExcept_setSt hrefl _)
  | jp nnn | jpV0 x nnn =>
    cases h
    exact sameExcept_jumpTo hrefl _
  | seImm x nn | sneImm x nn | seReg x y | sneReg x y =>
    cases h
    exact sameExcept_skipIf hrefl _
  | ldImm x nn | addImm x nn | ldReg x y | orReg x y | andReg x y | xorReg x y | ldVxDt x =>
    cases h
    exact sameExcept_advance (sameExcept_writeV hrefl _ _)
  | addReg x y | sub x y | shr x y | subn x y | shl x y =>
    cases h
    exact sameExcept_advance (sameExcept_writeVFlag hrefl _ _ _)

/-- The frame of an instruction, in the order a statement lists its pieces. -/
theorem sameExcept_of_exec (i : Instr) {s t : State} {fs : List Field} (h : exec i s = .next t)
    (hfs : .pc :: writes i ⊆ fs) : s.sameExcept fs t :=
  sameExcept_mono (eachInstructionWritesOnlyItsFields i s t h) hfs

end Sys2Proof.Proofs
end

section
/-!
Registers and PC (R22, R23, R26): which register an instruction that completes may change, and where PC then stands.
-/

namespace Sys2Proof.Proofs

open Sys2Proof Sys2Proof.Machine Sys2Proof.Claims

/-- Settles O41: the instructions that write registers do so by `writeV`, `writeVFlag` or `writeRegs`, and every other one
has a frame without them. -/
theorem registersChangeOnlyWhereNamed : Obligations.RegistersChangeOnlyWhereNamed := by
  intro i s t r h hr
  cases i with
  | ldImm x _ | addImm x _ | ldReg x _ | orReg x _ | andReg x _ | xorReg x _ | rnd x _ | ldVxDt x =>
    cases h
    exact State.readV_writeV_of_ne _ _ (by simpa [mayWriteReg] using hr)
  | addReg x _ | sub x _ | shr x _ | subn x _ | shl x _ =>
    cases h
    obtain ⟨hx, hflag⟩ : r ≠ x ∧ r ≠ flagReg := by simpa [mayWriteReg, flagReg] using hr
    exact (State.readV_writeVFlag s x r _ _ hflag).trans (if_neg hx)
  | addI x =>
    cases h
    exact State.readV_writeV_of_ne _ _ (by simpa [mayWriteReg, flagReg] using hr)
  | drw x y n =>
    obtain ⟨_, _, he, _⟩ | ⟨_, _, he⟩ := execDrw_cases x y n s <;> cases he.symm.trans h
    exact State.readV_writeV_of_ne _ _ (by simpa [mayWriteReg, flagReg] using hr)
  | ldVxK x =>
    obtain ⟨_, _, he⟩ | ⟨_, he⟩ := execLdVxK_cases x s <;> cases he.symm.trans h
    · exact State.readV_writeV_of_ne _ _ (by simpa [mayWriteReg] using hr)
    · rfl
  | ldVxMem x =>
    obtain ⟨he, _⟩ | ⟨_, he⟩ := execLdVxMem_cases x s <;> cases he.symm.trans h
    have hx : x.toNat < r.toNat := by simpa [mayWriteReg] using hr
    rw [State.advance_readV, State.readV_writeRegs, State.readBlock_getElem?, if_neg (by omega)]
    rfl
  | _ => exact eachInstructionWritesOnlyItsFields _ s t h .v (by simp [writes]) r

/-- From a PC an instruction can be fetched at, the advance does not wrap (R26). -/
theorem add_two_toNat {pc : Word} (h : pc.toNat + 1 ≤ 0xFFF) : (pc + 2).toNat = pc.toNat + 2 := by
  rw [BitVec.toNat_add]
  exact Nat.mod_eq_of_lt (show pc.toNat + 2 < 65536 by omega)

theorem skipIf_pc_toNat {s : State} (h : s.pc.toNat + 1 ≤ 0xFFF) (c : Bool) :
    (s.skipIf c).pc.toNat = s.pc.toNat + if c then 4 else 2 := by
  have h4 : (s.pc + 4).toNat = s.pc.toNat + 4 := by
    rw [BitVec.toNat_add]
    exact Nat.mod_eq_of_lt (show s.pc.toNat + 4 < 65536 by omega)
  rw [State.skipIf_pc]
  cases c with
  | true => exact h4
  | false => exact add_two_toNat h

theorem keys_getD (s : State) {k : Nat} (hk : k < 16) : s.keys.toList.getD k false = s.keys[k] := by
  simp [List.getD, hk]

/-- No key is the lowest pressed one exactly when none is pressed (R184). -/
theorem lowestKey_eq_none_iff_notMem (s : State) : s.lowestKey = none ↔ true ∉ s.keys.toList := by
  simp [State.lowestKey, List.findIdx?_eq_none_iff]

/-- Settles O42: the jumps and the skips have their rows, the key wait its two, and every other instruction advances. -/
theorem programCounterTable : Obligations.ProgramCounterTable := by
  intro i s t hpc h
  cases i with
  | jp nnn =>
    cases h
    exact zextAddr_toNat nnn
  | call nnn =>
    obtain ⟨_, he⟩ | ⟨_, he⟩ := execCall_cases nnn s <;> cases he.symm.trans h
    exact zextAddr_toNat nnn
  | ret =>
    obtain ⟨_, he⟩ | ⟨_, he⟩ := execRet_cases s <;> cases he.symm.trans h
    have hsp := s.sp.isLt
    have hlt : s.sp.val - 1 < 16 := by omega
    simp [nextPc, List.getD, hlt]
  | jpV0 x nnn =>
    cases h
    rw [State.jumpTo_pc, zext_add_toNat, nextPc, State.jumpOffset]
    cases s.config.jumpVariant <;> rfl
  | seImm x nn | seReg x y =>
    cases h
    rw [skipIf_pc_toNat hpc]
    simp [nextPc]
  | sneImm x nn | sneReg x y =>
    cases h
    rw [skipIf_pc_toNat hpc]
    simp [nextPc, bne]
  | skp x =>
    obtain ⟨hk, he⟩ | ⟨_, he⟩ := execSkp_cases x s <;> cases he.symm.trans h
    rw [skipIf_pc_toNat hpc, nextPc, keys_getD s hk]
  | sknp x =>
    obtain ⟨hk, he⟩ | ⟨_, he⟩ := execSknp_cases x s <;> cases he.symm.trans h
    rw [skipIf_pc_toNat hpc, nextPc, keys_getD s hk]
    cases s.keys[(s.readV x).toNat] <;> rfl
  | ldVxK x =>
    obtain ⟨k, hk, he⟩ | ⟨hk, he⟩ := execLdVxK_cases x s <;> cases he.symm.trans h
    · have hpressed : true ∈ s.keys.toList := by
        by_contra hnone
        rw [(lowestKey_eq_none_iff_notMem s).2 hnone] at hk
        cases hk
      rw [nextPc, if_pos hpressed]
      exact add_two_toNat hpc
    · rw [nextPc, if_neg ((lowestKey_eq_none_iff_notMem s).1 hk)]
      rfl
  | drw x y n =>
    obtain ⟨_, _, he, _⟩ | ⟨_, _, he⟩ := execDrw_cases x y n s <;> cases he.symm.trans h
    exact add_two_toNat hpc
  | ldB x =>
    obtain ⟨he, _⟩ | ⟨_, he⟩ := execLdB_cases x s <;> cases he.symm.trans h
    exact add_two_toNat hpc
  | ldMemVx x =>
    obtain ⟨he, _⟩ | ⟨_, he⟩ := execLdMemVx_cases x s <;> cases he.symm.trans h
    exact add_two_toNat hpc
  | ldVxMem x =>
    obtain ⟨he, _⟩ | ⟨_, he⟩ := execLdVxMem_cases x s <;> cases he.symm.trans h
    exact add_two_toNat hpc
  | _ =>
    cases h
    exact add_two_toNat hpc

end Sys2Proof.Proofs
end

section
/-!
Noninterference (R32, R57): memory and the sound timer pass through every instruction that does not touch them.
-/

namespace Sys2Proof.Proofs

open Sys2Proof Sys2Proof.Machine Sys2Proof.Claims

/-- The machine with its memory and its sound timer passed through a function each. -/
def retouch (g : Memory → Memory) (k : Byte → Byte) (s : State) : State := { s with mem := g s.mem, st := k s.st }

/-! ### Operations that check something, under any map of states that keeps what they check -/

section

variable (f : State → State) (s : State)

theorem withBlock_mapState (n : Nat) {go go' : Result} (hi : (f s).i = s.i) (hgo : go' = mapState f go) :
    (f s).withBlock n go' = mapState f (s.withBlock n go) := by
  rcases s.withBlock_cases n go with ⟨he, hin⟩ | ⟨hn, hout, he⟩
  · rw [he, (f s).withBlock_inside go' (by rwa [hi]), hgo]
  · obtain ⟨k, rfl⟩ : ∃ k, n = k + 1 := ⟨n - 1, by omega⟩
    rw [he, (f s).withBlock_outside go' (by rw [hi]; omega), hi]
    rfl

theorem withKey_mapState (k : Byte) {go go' : Bool → Result} (hkeys : (f s).keys = s.keys)
    (hgo : ∀ p, go' p = mapState f (go p)) : (f s).withKey k go' = mapState f (s.withKey k go) := by
  unfold State.withKey State.keyPressed
  simp only [hkeys]
  split
  · exact hgo _
  · rfl

end

/-! ### Instructions -/

section

variable (g : Memory → Memory) (k : Byte → Byte) (s : State)

theorem execRet_retouch : execRet (retouch g k s) = mapState (retouch g k) (execRet s) := by
  rcases execRet_cases s with ⟨h, hs⟩ | ⟨h, hs⟩
  · rw [hs, execRet, (retouch g k s).pop_of_pos h]
    rfl
  · rw [hs, execRet, (retouch g k s).pop_eq_none.2 h]
    rfl

theorem execCall_retouch (nnn : Addr) : execCall nnn (retouch g k s) = mapState (retouch g k) (execCall nnn s) := by
  rcases execCall_cases nnn s with ⟨h, hs⟩ | ⟨h, hs⟩
  · rw [hs, execCall, (retouch g k s).push_of_lt _ h]
    rfl
  · rw [hs, execCall, ((retouch g k s).push_eq_none _).2 h]
    rfl

theorem execLdVxK_retouch (x : Reg) : execLdVxK x (retouch g k s) = mapState (retouch g k) (execLdVxK x s) := by
  have hkey : (retouch g k s).lowestKey = s.lowestKey := rfl
  rcases execLdVxK_cases x s with ⟨_, h, hs⟩ | ⟨h, hs⟩
  · rw [hs, execLdVxK, hkey, h]
    rfl
  · rw [hs, execLdVxK, hkey, h]
    rfl

/-- The map is the identity on what the instruction touches, and so passes through it. -/
theorem exec_retouch (i : Instr) (hmem : touchesMemory i = true → g = id) (hst : ∀ x, i = .ldStVx x → k = id) :
    exec i (retouch g k s) = mapState (retouch g k) (exec i s) := by
  cases i with
  | ret => exact execRet_retouch g k s
  | call nnn => exact execCall_retouch g k s nnn
  | ldVxK x => exact execLdVxK_retouch g k s x
  | skp x | sknp x =>
    simp only [exec, execSkp, execSknp]
    exact withKey_mapState (retouch g k) s _ rfl fun _ => rfl
  | ldStVx x =>
    obtain rfl := hst x rfl
    rfl
  | drw x y n | ldB x | ldMemVx x | ldVxMem x =>
    obtain rfl := hmem rfl
    simp only [exec, execDrw, execLdB, execLdMemVx, execLdVxMem]
    exact withBlock_mapState (retouch id k) s _ rfl rfl
  | _ => rfl

end

/-- Settles O43: a constant memory passes through the instructions that do not touch memory. -/
theorem memoryIsInvisibleToOtherInstructions : Obligations.MemoryIsInvisibleToOtherInstructions := by
  intro i s m hi
  exact exec_retouch (fun _ => m) id s i (fun htouch => by simp [hi] at htouch) fun _ _ => rfl

/-- Settles O44: a constant sound timer passes through every instruction but LD ST, which writes it unread. -/
theorem soundTimerIsNeverRead : Obligations.SoundTimerIsNeverRead := by
  intro i s b
  refine ⟨fun hi => ?_, fun x hi => ?_⟩
  · exact exec_retouch id (fun _ => b) s i (fun _ => rfl) fun x hx => absurd hx (hi x)
  · rw [hi]
    rfl

end Sys2Proof.Proofs
end

section
/-!
The invariants of the machine (R8, R35, R50): canonical memory, PC and stack in range, and the configuration, over one
step, after a boot and along every run.
-/

namespace Sys2Proof.Proofs

open Sys2Proof Sys2Proof.Machine Sys2Proof.Claims

/-! ### Memory -/

/-- An instruction that does not touch memory leaves the very list of cells, by O43 with the memory it already has. -/
theorem mem_of_exec {i : Instr} {s t : State} (hi : touchesMemory i = false) (h : exec i s = .next t) :
    t.mem = s.mem := by
  have hsame : exec i s = mapState (fun u => { u with mem := s.mem }) (exec i s) :=
    memoryIsInvisibleToOtherInstructions i s s.mem hi
  rw [h] at hsame
  have ht : t = { t with mem := s.mem } := Host.Outcome.next.inj hsame
  rw [ht]

theorem bcdDigits_length (b : Byte) : (bcdDigits b).length = 3 := rfl

theorem exec_keeps_memoryCanonical {i : Instr} {s t : State} (hs : s.memoryCanonical) (h : exec i s = .next t) :
    t.memoryCanonical := by
  cases i with
  | ldB x =>
    obtain ⟨he, hin⟩ | ⟨_, he⟩ := execLdB_cases x s <;> cases he.symm.trans h
    exact s.wf_writeBlock hs (by rwa [bcdDigits_length])
  | ldMemVx x =>
    obtain ⟨he, hin⟩ | ⟨_, he⟩ := execLdMemVx_cases x s <;> cases he.symm.trans h
    exact s.wf_writeBlock hs (by rwa [State.regsUpTo_length])
  | drw x y n =>
    obtain ⟨_, _, he, _⟩ | ⟨_, _, he⟩ := execDrw_cases x y n s <;> cases he.symm.trans h
    exact hs
  | ldVxMem x =>
    obtain ⟨he, _⟩ | ⟨_, he⟩ := execLdVxMem_cases x s <;> cases he.symm.trans h
    exact hs
  | _ =>
    rw [State.memoryCanonical, mem_of_exec rfl h]
    exact hs

/-- Settles O53: a step that completes is an instruction, run on the memory the host's moves left alone. -/
theorem stepKeepsMemoryCanonical : Obligations.StepKeepsMemoryCanonical := by
  intro s t hs h
  obtain ⟨_, i, _, _, _, he⟩ := step_eq_next h
  exact exec_keeps_memoryCanonical (by rwa [State.memoryCanonical, State.deliver_mem]) he

/-! ### PC and the stack -/

/-- The most recent entry is in range, since it is an entry in use. -/
theorem top_toNat_le {s : State} (hs : s.pcInRange) (hsp : 0 < s.sp.val) :
    (s.stack.toList.getD (s.sp.val - 1) 0).toNat ≤ 0x1000 := by
  have hlt : s.sp.val - 1 < 16 := by have := s.sp.isLt; omega
  have hget : s.stack.toList.getD (s.sp.val - 1) 0 = s.stack[s.sp.val - 1] := by simp [List.getD, hlt]
  rw [hget]
  exact hs.2 ⟨s.sp.val - 1, hlt⟩ (show s.sp.val - 1 < s.sp.val by omega)

/-- Every row of the table of PC stays in range: the largest sum is that of JP V0 (R35). -/
theorem nextPc_le {i : Instr} {s : State} (hpc : s.pc.toNat + 1 ≤ 0xFFF) (hs : s.pcInRange)
    (hret : i = .ret → 0 < s.sp.val) : nextPc i s ≤ 0x10FE := by
  cases i with
  | ret => exact (top_toNat_le hs (hret rfl)).trans (by decide)
  | jp nnn | call nnn =>
    have := nnn.isLt
    simp only [nextPc]
    omega
  | jpV0 x nnn =>
    have := nnn.isLt
    have := (if s.config.jumpVariant = .legacy then s.readV 0x0 else s.readV x).isLt
    simp only [nextPc]
    omega
  | seImm x nn | sneImm x nn | seReg x y | sneReg x y | skp x | sknp x | ldVxK x =>
    simp only [nextPc]
    split_ifs <;> omega
  | _ =>
    simp only [nextPc]
    omega

/-- The stack entries in use stay in range: CALL pushes PC + 2, RET takes one off, and nothing else touches them. -/
theorem exec_keeps_stackInRange {i : Instr} {s t : State} (hpc : s.pc.toNat + 1 ≤ 0xFFF) (hs : s.pcInRange)
    (h : exec i s = .next t) (k : Fin 16) (hk : k.val < t.sp.val) : t.stack[k].toNat ≤ 0x1000 := by
  cases i with
  | call nnn =>
    obtain ⟨hsp, he⟩ | ⟨_, he⟩ := execCall_cases nnn s <;> cases he.symm.trans h
    have hk : k.val < s.sp.val + 1 := hk
    simp only [State.jumpTo_stack, State.setStack_stack, Fin.getElem_fin, Vector.getElem_set]
    split_ifs with htop
    · rw [add_two_toNat hpc]
      omega
    · exact hs.2 k (by omega)
  | ret =>
    obtain ⟨hsp, he⟩ | ⟨_, he⟩ := execRet_cases s <;> cases he.symm.trans h
    have hk : k.val < s.sp.val - 1 := hk
    exact hs.2 k (by omega)
  | _ =>
    have hframe := eachInstructionWritesOnlyItsFields _ s t h
    have hsp : t.sp = s.sp := hframe .sp (by simp [writes])
    have hstack : t.stack = s.stack := hframe .stack (by simp [writes])
    rw [hsp] at hk
    simpa only [hstack] using hs.2 k hk

theorem exec_keeps_pcInRange {i : Instr} {s t : State} (hpc : s.pc.toNat + 1 ≤ 0xFFF) (hs : s.pcInRange)
    (h : exec i s = .next t) : t.pcInRange := by
  refine ⟨?_, exec_keeps_stackInRange hpc hs h⟩
  rw [programCounterTable i s t hpc h]
  refine nextPc_le hpc hs ?_
  rintro rfl
  obtain ⟨hsp, _⟩ | ⟨_, he⟩ := execRet_cases s
  · exact hsp
  · cases he.symm.trans h

/-- Settles O54: the fetch bounds the PC a step starts from, and O42 bounds the one it ends at. -/
theorem stepKeepsPcInRange : Obligations.StepKeepsPcInRange := by
  intro s t hs h
  obtain ⟨w, i, _, hf, _, he⟩ := step_eq_next h
  have hpc := ((s.fetch_eq_some w).1 hf).1
  exact exec_keeps_pcInRange (by rwa [State.deliver_pc]) (by simpa only [State.pcInRange, State.deliver_pc,
    State.deliver_sp, State.deliver_stack] using hs) he

/-! ### The configuration -/

/-- No instruction is said to write the configuration or the loaded flag. -/
theorem config_loaded_notMem_writes (i : Instr) : Field.config ∉ .pc :: writes i ∧ Field.loaded ∉ .pc :: writes i := by
  cases i <;> simp [writes]

/-- Settles O55: the frames of the instructions and of the host's moves hold both pieces. -/
theorem stepKeepsTheConfiguration : Obligations.StepKeepsTheConfiguration := by
  intro s t h
  obtain ⟨_, i, hl, _, _, he⟩ := step_eq_next h
  obtain ⟨hconfig, hloaded⟩ := config_loaded_notMem_writes i
  have hframe := eachInstructionWritesOnlyItsFields i s.deliver t he
  have hc : t.config = s.deliver.config := hframe .config hconfig
  have hl' : t.loaded = s.deliver.loaded := hframe .loaded hloaded
  rw [State.deliver_config] at hc
  rw [State.deliver_loaded, hl] at hl'
  exact ⟨hc, hl, hl'⟩

/-! ### Reset, boot and runs -/

/-- Settles O56: reset is a closed state. -/
theorem resetMeetsTheInvariants : Obligations.ResetMeetsTheInvariants := by
  refine ⟨by decide, ⟨by decide, fun k hk => absurd hk (Nat.not_lt_zero _)⟩, by decide⟩

theorem run_succ_of_next (n : Nat) {s t : State} (h : step s = .next t) :
    Host.Core.run Sys2Proof.core (n + 1) s = Host.Core.run Sys2Proof.core n t := by
  have h' : Sys2Proof.core.step s = .next t := h
  simp only [Host.Core.run, h']

theorem run_succ_of_fault (n : Nat) {s : State} {r : Fault} (h : step s = .fault r) :
    Host.Core.run Sys2Proof.core (n + 1) s = .fault r := by
  have h' : Sys2Proof.core.step s = .fault r := h
  simp only [Host.Core.run, h']

theorem run_succ_of_refused (n : Nat) {s : State} {r : Refusal} (h : step s = .refused r) :
    Host.Core.run Sys2Proof.core (n + 1) s = .refused r := by
  have h' : Sys2Proof.core.step s = .refused r := h
  simp only [Host.Core.run, h']

/-- What every step keeps holds along every run (R201). -/
theorem run_keeps {P : State → Prop} (hstep : ∀ s t, P s → step s = .next t → P t) (n : Nat) {s t : State} (hs : P s)
    (h : Host.Core.run Sys2Proof.core n s = .next t) : P t := by
  induction n generalizing s with
  | zero =>
    cases h
    exact hs
  | succ n ih =>
    cases hu : step s with
    | next u => exact ih (hstep s u hs hu) ((run_succ_of_next n hu).symm.trans h)
    | fault r => cases (run_succ_of_fault n hu).symm.trans h
    | refused r => cases (run_succ_of_refused n hu).symm.trans h

/-- Under the constraint on FONT_BASE the font load is a copy that fits (R8, R232). -/
theorem loadFont_of_configValid {s : State} (hc : s.configValid) :
    s.config.fontBase.toNat + s.config.fontTable.toList.length ≤ memSize ∧
      s.loadFont = { s with mem := s.mem.writeBytes s.config.fontBase.toNat s.config.fontTable.toList } := by
  have hvalid : s.config.fontBase.toNat + 80 ≤ 0x200 := of_decide_eq_true hc
  have hfit : s.config.fontBase.toNat + s.config.fontTable.toList.length ≤ memSize := by
    rw [Vector.length_toList, memSize]
    omega
  refine ⟨hfit, ?_⟩
  rw [State.loadFont, Memory.copy_eq_some.2 ⟨hfit, rfl⟩]

/-- Initialisation is reset with the font in memory (R231, R232). -/
theorem initialised_eq : State.initialised =
    { State.reset with mem := State.reset.mem.writeBytes 0 Config.defaultFontTable.toList } :=
  (loadFont_of_configValid resetMeetsTheInvariants.2.2).2

theorem initialised_memoryCanonical : State.initialised.memoryCanonical := by
  obtain ⟨hmem, _, hconfig⟩ := resetMeetsTheInvariants
  rw [initialised_eq]
  exact Memory.wf_writeBytes hmem (loadFont_of_configValid hconfig).1

theorem boot_meets_invariants {bytes : List Byte} {s : State} (h : State.boot bytes = .ok s) :
    s.memoryCanonical ∧ s.pcInRange ∧ s.configValid := by
  obtain ⟨_, he⟩ | ⟨_, _, he⟩ | ⟨_, hlen, he⟩ := State.initialised.loadProgram_cases bytes <;>
    cases he.symm.trans h
  refine ⟨Memory.wf_writeBytes initialised_memoryCanonical ?_, ⟨?_, ?_⟩, ?_⟩
  · rw [memSize]
    omega
  · show (0x200 : Word).toNat ≤ 0x10FE
    decide
  · rw [initialised_eq]
    exact fun k hk => absurd hk (Nat.not_lt_zero _)
  · rw [initialised_eq]
    exact resetMeetsTheInvariants.2.2

/-- Settles O57: the boot meets the invariants, and every step keeps them. -/
theorem invariantsHoldAlongEveryRun : Obligations.InvariantsHoldAlongEveryRun := by
  refine ⟨fun _ _ => boot_meets_invariants, fun n s t hs h => ?_⟩
  refine run_keeps (P := fun u => u.memoryCanonical ∧ u.pcInRange ∧ u.configValid) ?_ n hs h
  rintro u v ⟨hmem, hpc, hconfig⟩ huv
  refine ⟨stepKeepsMemoryCanonical u v hmem huv, stepKeepsPcInRange u v hpc huv, ?_⟩
  rw [State.configValid, (stepKeepsTheConfiguration u v huv).1]
  exact hconfig

end Sys2Proof.Proofs
end

section
/-!
Control flow (R100 to R107, R170 to R172): jumps, calls and returns, and the skips on two registers and on keys.
-/

namespace Sys2Proof.Proofs

open Sys2Proof Sys2Proof.Machine Sys2Proof.Claims

/-- Settles O11: the instruction ends in one jump. -/
theorem jumpSetsThePc : Obligations.JumpSetsThePc := by
  intro nnn s
  exact ⟨decodeWord_encode (.jp nnn) rfl, _, rfl, zextAddr_toNat nnn, sameExcept_jumpTo (sameExcept_refl s) _⟩

/-- Settles O12: the depth decides whether the push is done, and the jump follows in both cases. -/
theorem callPushesThenJumps : Obligations.CallPushesThenJumps := by
  intro nnn s
  refine ⟨decodeWord_encode (.call nnn) rfl, fun hlt => ?_, fun hfull => ?_⟩
  · obtain ⟨_, he⟩ | ⟨hsp, _⟩ := execCall_cases nnn s
    · refine ⟨_, he, rfl, by simp, fun k hk => ?_, zextAddr_toNat nnn, sameExcept_of_exec (.call nnn) he (by simp [writes])⟩
      simp [Ne.symm hk]
    · omega
  · obtain ⟨hsp, _⟩ | ⟨_, he⟩ := execCall_cases nnn s
    · omega
    · exact ⟨_, he, zextAddr_toNat nnn, sameExcept_jumpTo (sameExcept_refl s) _⟩

/-- Settles O13: the depth decides whether the pop is done. -/
theorem returnPopsTheTop : Obligations.ReturnPopsTheTop := by
  intro s
  refine ⟨decodeWord_encode .ret rfl, fun hpos => ?_, fun hempty => ?_⟩
  · obtain ⟨_, he⟩ | ⟨hsp, _⟩ := execRet_cases s
    · exact ⟨_, he, rfl, Nat.sub_add_cancel hpos, sameExcept_of_exec .ret he (by simp [writes])⟩
    · omega
  · obtain ⟨hsp, _⟩ | ⟨_, he⟩ := execRet_cases s
    · omega
    · exact he

/-- Settles O14: the entry the return pops is the one the call pushed, since nothing changed it in between. -/
theorem callThenReturn : Obligations.CallThenReturn := by
  intro nnn s t u hcall husp hustack
  obtain ⟨hlt, he⟩ | ⟨_, he⟩ := execCall_cases nnn s <;> cases he.symm.trans hcall
  have hsp : u.sp.val = s.sp.val + 1 := congrArg Fin.val husp
  obtain ⟨hpos, hret⟩ | ⟨hempty, _⟩ := execRet_cases u
  · refine ⟨_, hret, ?_, Fin.ext (show u.sp.val - 1 = s.sp.val by omega), fun k hk => ?_⟩
    · simpa [hsp] using hustack ⟨s.sp.val, hlt⟩ (Nat.lt_succ_self _)
    · simpa [Vector.getElem_set, Nat.ne_of_gt hk] using hustack k (Nat.lt_succ_of_lt hk)
  · omega

/-- Settles O16: both instructions end in `skipIf`, with the test for equality and the one for inequality. -/
theorem registerSkips : Obligations.RegisterSkips := by
  intro x y n s
  exact ⟨decodeWord_wordFXYN_seReg x y n, skips_of_exec_eq_skipIf rfl beq_iff_eq,
    decodeWord_wordFXYN_sneReg x y n, skips_of_exec_eq_skipIf rfl bne_iff_ne⟩

/-- Settles O17: the instruction ends in one jump, whose sum does not wrap. -/
theorem jumpWithOffset : Obligations.JumpWithOffset := by
  intro nnn s x
  refine ⟨decodeWord_wordFNNN_jpV0 nnn, _, rfl, fun hv => ?_, fun hv => ?_,
    sameExcept_jumpTo (sameExcept_refl s) _⟩
  · rw [State.jumpTo_pc, zext_add_toNat, State.jumpOffset, hv]
  · rw [State.jumpTo_pc, zext_add_toNat, State.jumpOffset, hv]

/-- Settles O18: the check of the key index decides whether an instruction skips. -/
theorem keySkips : Obligations.KeySkips := by
  intro x s
  refine ⟨decodeWord_encode (.skp x) rfl, decodeWord_encode (.sknp x) rfl, fun hk => ⟨?_, ?_⟩, fun hk => ⟨?_, ?_⟩⟩
  · obtain ⟨_, he⟩ | ⟨hout, _⟩ := execSkp_cases x s
    · exact skips_of_exec_eq_skipIf he Iff.rfl
    · exact absurd hk hout
  · obtain ⟨_, he⟩ | ⟨hout, _⟩ := execSknp_cases x s
    · exact skips_of_exec_eq_skipIf he (by rw [Bool.not_eq_true'])
    · exact absurd hk hout
  · obtain ⟨hin, _⟩ | ⟨_, he⟩ := execSkp_cases x s
    · omega
    · exact he
  · obtain ⟨hin, _⟩ | ⟨_, he⟩ := execSknp_cases x s
    · omega
    · exact he

end Sys2Proof.Proofs
end

section
/-!
Results and flags (R23, R123, R131, R136 to R140, R183): the model's operations on bytes as the arithmetic of the
statements, and what a result and a flag change.
-/

namespace Sys2Proof.Proofs

open Sys2Proof Sys2Proof.Machine Sys2Proof.Claims

/-! ### Arithmetic on bytes -/

theorem byte_sub_eq_ofNat (a b : Byte) : a - b = BitVec.ofNat 8 ((a.toNat + 256 - b.toNat) % 256) := by
  have := b.isLt
  apply BitVec.eq_of_toNat_eq
  simp only [BitVec.toNat_sub, BitVec.toNat_ofNat]
  omega

theorem byte_shiftRight_one_eq_ofNat (b : Byte) : b >>> 1 = BitVec.ofNat 8 (b.toNat / 2) := by
  have := b.isLt
  apply BitVec.eq_of_toNat_eq
  simp only [BitVec.toNat_ushiftRight, BitVec.toNat_ofNat, Nat.shiftRight_eq_div_pow]
  omega

theorem byte_shiftLeft_one_eq_ofNat (b : Byte) : b <<< 1 = BitVec.ofNat 8 (b.toNat * 2 % 256) := by
  apply BitVec.eq_of_toNat_eq
  simp only [BitVec.toNat_shiftLeft, BitVec.toNat_ofNat, Nat.shiftLeft_eq]
  omega

theorem shiftedOutRight_eq_ofNat (b : Byte) : shiftedOutRight b = BitVec.ofNat 8 (b.toNat % 2) := by
  rw [← shiftedOutRight_toNat, BitVec.ofNat_toNat, BitVec.setWidth_eq]

theorem shiftedOutLeft_eq_ofNat (b : Byte) : shiftedOutLeft b = BitVec.ofNat 8 (b.toNat / 128) := by
  rw [← shiftedOutLeft_toNat, BitVec.ofNat_toNat, BitVec.setWidth_eq]

/-- The value the statements shift is the one the model shifts (R138, R140). -/
theorem shifted_eq_toNat (s : State) (x y : Reg) : shifted s x y = (s.shiftSource x y).toNat := by
  unfold shifted State.shiftSource
  cases s.config.shiftVariant <;> rfl

/-! ### Flags -/

theorem flagByte_eq_bit (p : Prop) [Decidable p] : flagByte (decide p) = bit p := by
  by_cases hp : p <;> simp [flagByte, bit, hp]

theorem carryFlag_eq_bit (a b : Byte) : carryFlag a b = bit (a.toNat + b.toNat > 255) := by
  apply BitVec.eq_of_toNat_eq
  rw [carryFlag_toNat, bit]
  split_ifs <;> rfl

/-- An instruction that ends in `writeVFlag` and the advance of PC writes its result and its flag alone (R131). -/
theorem writesResultAndFlag_of_exec_eq_writeVFlag {w : Word} {i : Instr} {s : State} {x : Reg} {b flag : Byte}
    (hdecode : decodeWord w = .ok i) (hexec : exec i s = .next (s.writeVFlag x b flag).advance) :
    WritesResultAndFlag w i s x b flag := by
  refine ⟨hdecode, _, hexec, s.readV_writeVFlag_flag x b flag, fun hx => ?_, fun r hr hflag => ?_, rfl,
    sameExcept_mono (sameExcept_advance (sameExcept_writeVFlag (sameExcept_refl s) x b flag)) (by simp)⟩
  · exact (s.readV_writeVFlag x x b flag hx).trans (if_pos rfl)
  · exact (s.readV_writeVFlag x r b flag hflag).trans (if_neg hr)

/-- Settles O23: the wrapped sum and its carry. -/
theorem addSetsTheCarry : Obligations.AddSetsTheCarry := by
  intro x y s
  rw [← byte_add_eq_ofNat, ← carryFlag_eq_bit]
  exact writesResultAndFlag_of_exec_eq_writeVFlag (decodeWord_encode (.addReg x y) rfl) rfl

/-- Settles O24: the wrapped differences, each with the strict comparison. -/
theorem subtractSetsTheStrictFlag : Obligations.SubtractSetsTheStrictFlag := by
  intro x y s
  simp only [← byte_sub_eq_ofNat, ← flagByte_eq_bit]
  exact ⟨writesResultAndFlag_of_exec_eq_writeVFlag (decodeWord_encode (.sub x y) rfl) rfl,
    writesResultAndFlag_of_exec_eq_writeVFlag (decodeWord_encode (.subn x y) rfl) rfl⟩

/-- Settles O25: the shifted value, halved or doubled, with the bit shifted out. -/
theorem shiftsFollowTheVariant : Obligations.ShiftsFollowTheVariant := by
  intro x y s
  rw [shifted_eq_toNat, ← byte_shiftRight_one_eq_ofNat, ← shiftedOutRight_eq_ofNat, ← byte_shiftLeft_one_eq_ofNat,
    ← shiftedOutLeft_eq_ofNat]
  exact ⟨writesResultAndFlag_of_exec_eq_writeVFlag (decodeWord_encode (.shr x y) rfl) rfl,
    writesResultAndFlag_of_exec_eq_writeVFlag (decodeWord_encode (.shl x y) rfl) rfl⟩

/-! ### RND and the address register -/

/-- Settles O21: a draw that is counted, then one register write of the masked byte. -/
theorem randomByteIsMasked : Obligations.RandomByteIsMasked := by
  intro x nn s
  have hread : (s.countDraw.writeV x (Config.rnd s.rndCount &&& nn)).advance.readV x = Config.rnd s.rndCount &&& nn :=
    State.readV_writeV_same _ _ _
  refine ⟨decodeWord_encode (.rnd x nn) rfl, _, rfl, hread, fun k hk => ?_, fun r hr => ?_, rfl, rfl,
    sameExcept_of_exec (.rnd x nn) rfl (by simp [writes])⟩
  · rw [hread, BitVec.getLsbD_and, hk, Bool.and_false]
  · exact State.readV_writeV_of_ne _ _ hr

/-- The new I of ADD I, Vx, as a number (R183). -/
theorem add_zextByte_toNat (i : Word) (b : Byte) : (i + zextByte b).toNat = (i.toNat + b.toNat) % 65536 := by
  rw [BitVec.toNat_add, zextByte_toNat]

/-- Settles O31: the wrapped sum goes to I, and the flag tests it. -/
theorem addToAddressRegister : Obligations.AddToAddressRegister := by
  intro x s
  rw [← add_zextByte_toNat, ← flagByte_eq_bit]
  exact ⟨decodeWord_encode (.addI x) rfl, _, rfl, rfl, State.readV_writeV_same _ _ _,
    fun r hr => State.readV_writeV_of_ne _ _ hr, rfl, sameExcept_of_exec (.addI x) rfl (by simp [writes])⟩

/-- Settles O33: the low nibble of a byte is the byte mod 16, and the sum does not wrap. -/
theorem glyphAddress : Obligations.GlyphAddress := by
  intro x s
  refine ⟨decodeWord_encode (.ldF x) rfl, _, rfl, ?_, rfl, sameExcept_i_pc_setI_advance s _⟩
  simp [BitVec.extractLsb'_toNat]

/-- Settles O32: the two cases are those of the lowest pressed key. -/
theorem keyWait : Obligations.KeyWait := by
  intro x s
  have hdecode := decodeWord_encode (.ldVxK x) rfl
  refine ⟨hdecode, fun k hk hlow => writesRegister_of_exec_eq_writeV hdecode ?_, fun hnone => ?_⟩
  · have hkey : s.lowestKey = some k.val :=
      (s.lowestKey_eq_some k.val).2 ⟨k.isLt, hk, fun j hj => hlow ⟨j, hj.trans k.isLt⟩ hj⟩
    rw [exec, execLdVxK, hkey]
  · have hkey : s.lowestKey = none := s.lowestKey_eq_none.2 fun k hk => hnone ⟨k, hk⟩
    rw [exec, execLdVxK, hkey]

end Sys2Proof.Proofs
end

section
/-!
Memory blocks (R53, R57, R186 to R188): what an address reads after a block is stored, what a register holds after one is
loaded, and the two together.
-/

namespace Sys2Proof.Proofs

open Sys2Proof Sys2Proof.Machine Sys2Proof.Claims

/-- Byte `k` of a stored block stands at I + k (R53, R57). -/
theorem read_writeBlock_dataAddr {s : State} (hm : s.mem.wf) {bytes : List Byte}
    (h : s.i.toNat + bytes.length ≤ 0x1000) (k : Nat) :
    (s.writeBlock bytes).mem.read (s.dataAddr k) = (bytes[k]?).getD (s.mem.read (s.dataAddr k)) := by
  rw [s.read_writeBlock hm h, State.dataAddr, if_pos (Nat.le_add_right _ _), Nat.add_sub_cancel_left]

/-- A stored block leaves every byte below I, and every one from its end on. -/
theorem read_writeBlock_outside {s : State} (hm : s.mem.wf) {bytes : List Byte}
    (h : s.i.toNat + bytes.length ≤ 0x1000) {a : Nat} (ha : a < s.dataAddr 0 ∨ s.dataAddr bytes.length ≤ a) :
    (s.writeBlock bytes).mem.read a = s.mem.read a := by
  rw [State.dataAddr, State.dataAddr] at ha
  rw [s.read_writeBlock hm h]
  rcases ha with hbelow | habove
  · exact if_neg (by omega)
  · rw [List.getElem?_eq_none (by omega), Option.getD_none, ite_self]

/-- LD [I], Vx stores V[r] as byte r of its block (R187). -/
theorem regsUpTo_getElem?_reg (s : State) {x r : Reg} (hr : r.toNat ≤ x.toNat) :
    (s.regsUpTo x)[r.toNat]? = some (s.readV r) := by
  rw [State.regsUpTo_getElem?, dif_pos hr, BitVec.ofNatLT_toNat]

/-- Settles O34: the check of the block decides whether the three digits are stored. -/
theorem decimalDigits : Obligations.DecimalDigits := by
  intro x s hm
  refine ⟨decodeWord_encode (.ldB x) rfl, fun hin => ?_, fun hout => ?_⟩
  · obtain ⟨he, hfit⟩ | ⟨hout, _⟩ := execLdB_cases x s
    · have hread := read_writeBlock_dataAddr hm (bytes := bcdDigits (s.readV x)) hfit
      refine ⟨_, he, hread 0, hread 1, hread 2, fun a ha => ?_, rfl, sameExcept_of_exec (.ldB x) he (by simp [writes])⟩
      exact read_writeBlock_outside hm (bytes := bcdDigits (s.readV x)) hfit ha
    · omega
  · obtain ⟨_, hfit⟩ | ⟨_, he⟩ := execLdB_cases x s
    · omega
    · exact he

/-- Settles O35: the check of the block decides whether the registers are stored. -/
theorem storeRegisterBlock : Obligations.StoreRegisterBlock := by
  intro x s hm
  refine ⟨decodeWord_encode (.ldMemVx x) rfl, fun hin => ?_, fun hout => ?_⟩
  · obtain ⟨he, hfit⟩ | ⟨hout, _⟩ := execLdMemVx_cases x s
    · have hlen : s.i.toNat + (s.regsUpTo x).length ≤ 0x1000 := by rwa [State.regsUpTo_length]
      refine ⟨_, he, fun r hr => ?_, fun a ha => ?_, rfl, sameExcept_of_exec (.ldMemVx x) he (by simp [writes])⟩
      · rw [State.advance_mem, read_writeBlock_dataAddr hm hlen, regsUpTo_getElem?_reg s hr, Option.getD_some]
      · exact read_writeBlock_outside hm hlen (by rw [State.regsUpTo_length]; exact ha)
    · omega
  · obtain ⟨_, hfit⟩ | ⟨_, he⟩ := execLdMemVx_cases x s
    · omega
    · exact he

/-- Settles O36: the check of the block decides whether the registers are loaded. -/
theorem loadRegisterBlock : Obligations.LoadRegisterBlock := by
  intro x s
  refine ⟨decodeWord_encode (.ldVxMem x) rfl, fun hin => ?_, fun hout => ?_⟩
  · obtain ⟨he, hfit⟩ | ⟨hout, _⟩ := execLdVxMem_cases x s
    · have hread (r : Reg) : (s.writeRegs (s.readBlock (x.toNat + 1))).advance.readV r =
          (if r.toNat < x.toNat + 1 then some (s.mem.read (s.dataAddr r.toNat)) else none).getD (s.readV r) := by
        rw [State.advance_readV, State.readV_writeRegs, State.readBlock_getElem?, State.dataAddr]
      refine ⟨_, he, fun r hr => ?_, fun r hr => ?_, rfl, sameExcept_of_exec (.ldVxMem x) he (by simp [writes])⟩
      · rw [hread, if_pos (by omega), Option.getD_some]
      · rw [hread, if_neg (by omega), Option.getD_none]
    · omega
  · obtain ⟨_, hfit⟩ | ⟨_, he⟩ := execLdVxMem_cases x s
    · omega
    · exact he

/-- Settles O37: O35 says what the store leaves at each address, and O36 that the load reads it. -/
theorem storeThenLoadRestores : Obligations.StoreThenLoadRestores := by
  intro x s t u hm hstore hmem hi
  obtain ⟨_, hinside, houtside⟩ := storeRegisterBlock x s hm
  rcases Nat.lt_or_ge 0xFFF (s.i.toNat + x.toNat) with hout | hin
  · cases (houtside hout).symm.trans hstore
  · obtain ⟨t', ht', hread, _⟩ := hinside hin
    cases ht'.symm.trans hstore
    have hti : t.i = s.i := eachInstructionWritesOnlyItsFields (.ldMemVx x) s t hstore .i (by simp [writes])
    have hui : u.i = s.i := hi.trans hti
    obtain ⟨r, hr, hload, _⟩ := (loadRegisterBlock x u).2.1 (by rwa [hui])
    refine ⟨r, hr, fun k hk => ?_⟩
    rw [hload k hk, hmem, State.dataAddr, hui]
    exact hread k hk

/-! ### Stored bytes and later fetches -/

/-- LD B stores the decimal digits, as bytes of a block. -/
theorem storedByte_ldB (s : State) (x : Reg) (k : Nat) : storedByte (.ldB x) s k = (bcdDigits (s.readV x))[k]? := by
  match k with
  | 0 | 1 | 2 => rfl
  | k + 3 => simp [storedByte, bcdDigits]

/-- LD [I], Vx stores the registers up to X, as bytes of a block. -/
theorem storedByte_ldMemVx (s : State) (x : Reg) (k : Nat) : storedByte (.ldMemVx x) s k = (s.regsUpTo x)[k]? := by
  rw [State.regsUpTo_getElem?]
  by_cases hk : k ≤ x.toNat
  · simp [storedByte, hk, BitVec.ofNatLT_eq_ofNat]
  · simp [storedByte, hk]

/-- After LD B or LD [I] every address holds the byte the statements give it. -/
theorem read_of_exec_store {i : Instr} {s t : State} (hm : s.memoryCanonical) (hi : ∃ x, i = .ldB x ∨ i = .ldMemVx x)
    (h : exec i s = .next t) : t.pc = s.pc + 2 ∧ ∀ a, t.mem.read a = byteAfter i s a := by
  obtain ⟨x, rfl | rfl⟩ := hi
  · obtain ⟨he, hfit⟩ | ⟨_, he⟩ := execLdB_cases x s <;> cases he.symm.trans h
    refine ⟨rfl, fun a => ?_⟩
    rw [State.advance_mem, s.read_writeBlock hm (bytes := bcdDigits (s.readV x)) hfit, byteAfter, storedByte_ldB]
  · obtain ⟨he, hfit⟩ | ⟨_, he⟩ := execLdMemVx_cases x s <;> cases he.symm.trans h
    refine ⟨rfl, fun a => ?_⟩
    rw [State.advance_mem, s.read_writeBlock hm (by rwa [State.regsUpTo_length]), byteAfter, storedByte_ldMemVx]

/-- The host's moves change none of what a store writes from. -/
theorem byteAfter_deliver (i : Instr) (s : State) (a : Nat) : byteAfter i s.deliver a = byteAfter i s a := by
  have hstored (k : Nat) : storedByte i s.deliver k = storedByte i s k := by
    cases i with
    | ldB x => simp only [storedByte, State.deliver_readV]
    | ldMemVx x => simp only [storedByte, State.deliver_readV]
    | _ => rfl
  rw [byteAfter, byteAfter, State.deliver_i, State.deliver_mem, hstored]

/-- Settles O38: the step runs the word it fetched, and a later fetch reads two bytes of the memory it left. -/
theorem storedBytesAreFetchedNext : Obligations.StoredBytesAreFetchedNext := by
  intro s t w i hm hl hf hd hi hstep
  rw [step_of_decode hl hf hd] at hstep
  obtain ⟨hpc, hread⟩ := read_of_exec_store (by rwa [State.memoryCanonical, State.deliver_mem]) hi hstep
  rw [State.deliver_pc] at hpc
  refine ⟨hpc, fun u hhi hlo hin => (u.fetch_eq_some _).2 ⟨hin, ?_⟩⟩
  rw [State.wordAt, hhi, hlo, hread, hread, byteAfter_deliver, byteAfter_deliver, wordOfBytes]

end Sys2Proof.Proofs
end

section
/-!
The memory of a machine that is set up (R60 to R63, R185, R230 to R235): reset, the font load and the whole boot path.
-/

namespace Sys2Proof.Proofs

open Sys2Proof Sys2Proof.Machine Sys2Proof.Claims

/-- Settles O48: reset is a closed state, and its display is the cleared one. -/
theorem resetIsTheAllocatedMachine : Obligations.ResetIsTheAllocatedMachine :=
  ⟨fun _ => rfl, Display.pixel_clear, rfl, rfl, rfl⟩

/-- Settles O51: LD F points five rows per digit into the table, and the font load copied the table to FONT_BASE. -/
theorem glyphsStandWhereLdFPoints : Obligations.GlyphsStandWhereLdFPoints := by
  intro s t x row hm hconfig h
  obtain ⟨hfit, hfont⟩ := loadFont_of_configValid hconfig
  rw [hfont] at h
  obtain ⟨_, t', ht', hi, _⟩ := glyphAddress x
    { s with mem := s.mem.writeBytes s.config.fontBase.toNat s.config.fontTable.toList }
  cases ht'.symm.trans h
  have hmem : t.mem = s.mem.writeBytes s.config.fontBase.toNat s.config.fontTable.toList := mem_of_exec rfl h
  have hk : 5 * ((s.readV x).toNat % 16) + row.val < s.config.fontTable.toList.length := by
    have := row.isLt
    rw [Vector.length_toList]
    omega
  have hread := Memory.read_copy_inside hm (Memory.copy_eq_some.2 ⟨hfit, rfl⟩) hk
  rw [hi, hmem, Nat.add_assoc]
  exact hread.trans (Vector.getElem_toList _)

/-- After initialisation memory holds the default font from 0x000 on, and zero elsewhere (R60, R61). -/
theorem read_initialised (a : Nat) :
    State.initialised.mem.read a = if a < 0x50 then Config.defaultFontTable.toList.getD a 0 else 0 := by
  have hlen : Config.defaultFontTable.toList.length = 0x50 := Vector.length_toList
  rw [initialised_eq]
  show (State.reset.mem.writeBytes 0 Config.defaultFontTable.toList).read a = _
  rw [Memory.read_writeBytes resetMeetsTheInvariants.1 (by rw [hlen]; decide), if_pos (Nat.zero_le a), Nat.sub_zero]
  split_ifs with ha
  · rw [List.getD_eq_getElem?_getD, List.getElem?_eq_getElem (by omega)]
    rfl
  · rw [List.getElem?_eq_none (by omega)]
    rfl

/-- Settles O52: the image is loaded beside the font, and an image that is too long is an error. -/
theorem bootedMemoryMap : Obligations.BootedMemoryMap := by
  intro bytes
  have hunloaded : State.initialised.loaded = false := by rw [initialised_eq]; rfl
  refine ⟨fun hshort => ?_, fun hlong => ?_⟩
  · obtain ⟨t, ht, hpc, hloaded, hinside, houtside, _⟩ :=
      loadProgramPlacesTheImage State.initialised bytes initialised_memoryCanonical hunloaded hshort
    refine ⟨t, ht, hpc, hloaded, fun a => ?_⟩
    by_cases hlow : a < 0x200
    · rw [houtside a (.inl hlow), read_initialised, if_neg (by omega : ¬0x200 ≤ a)]
    · obtain ⟨k, rfl⟩ : ∃ k, a = 0x200 + k := ⟨a - 0x200, by omega⟩
      rw [if_neg (by omega), if_pos (by omega), Nat.add_sub_cancel_left, List.getD_eq_getElem?_getD]
      by_cases hk : k < bytes.length
      · rw [hinside k hk, List.getElem?_eq_getElem hk, Option.getD_some]
      · rw [houtside _ (.inr (by omega)), read_initialised, if_neg (by omega), List.getElem?_eq_none (by omega),
          Option.getD_none]
  · obtain ⟨hloaded, _⟩ | ⟨_, _, he⟩ | ⟨_, hshort, _⟩ := State.initialised.loadProgram_cases bytes
    · rw [hunloaded] at hloaded
      cases hloaded
    · exact he
    · omega

end Sys2Proof.Proofs
end

section
/-!
Drawing (R151, R153, R154): DRW draws the sprite the statements describe by `covers`, and a draw that is done twice.
-/

namespace Sys2Proof.Proofs

open Sys2Proof Sys2Proof.Machine Sys2Proof.Claims

/-- The pixels the sprite of DRW covers are those of the block of bytes it reads. -/
theorem spriteCovers_readBlock_iff (s : State) (x y : Reg) (n : Nibble) (px : Fin 64) (py : Fin 32) :
    spriteCovers ((s.readV x).toNat % 64) ((s.readV y).toNat % 32) (s.readBlock n.toNat) px py ↔
      covers s x y n px py := by
  constructor
  · rintro ⟨r, c, row, hc, hrow, hbit, rfl, rfl⟩
    rw [State.readBlock_getElem?] at hrow
    split_ifs at hrow with hr
    cases hrow
    exact ⟨r, hr, c, hc, hbit, rfl, rfl⟩
  · rintro ⟨r, hr, c, hc, hbit, hpx, hpy⟩
    exact ⟨r, c, _, hc, (s.readBlock_getElem? _ _).trans (if_pos hr), hbit, Fin.ext hpx, Fin.ext hpy⟩

/-- What DRW draws, in the words of the statements. -/
theorem drawn_covers (s : State) (x y : Reg) (n : Nibble) :
    Drawn (Canvas.mk s.disp false)
      (s.draw ((s.readV x).toNat % 64) ((s.readV y).toNat % 32) (s.readBlock n.toNat)) (covers s x y n) := by
  refine (s.drawn_draw _ _ _ ?_).congr (spriteCovers_readBlock_iff s x y n)
  rw [State.readBlock_length]
  exact n.isLt.le.trans (by decide)

/-- The state DRW leaves, when it drew the canvas. -/
def afterDraw (s : State) (cv : Canvas) : State :=
  ((s.setDisp cv.disp).writeV flagReg (collisionFlag cv.collision)).advance

/-- A DRW that completes drew the pixels its sprite covers. -/
theorem drawn_of_exec_drw {x y : Reg} {n : Nibble} {s t : State} (h : exec (.drw x y n) s = .next t) :
    ∃ cv, Drawn (Canvas.mk s.disp false) cv (covers s x y n) ∧ t = afterDraw s cv := by
  obtain ⟨cv, rfl, he, _⟩ | ⟨_, _, he⟩ := execDrw_cases x y n s <;> cases he.symm.trans h
  exact ⟨_, drawn_covers s x y n, rfl⟩

theorem afterDraw_flag (s : State) (cv : Canvas) : (afterDraw s cv).readV 0xF = collisionFlag cv.collision :=
  State.readV_writeV_same _ _ _

theorem afterDraw_readV_of_ne (s : State) (cv : Canvas) {r : Reg} (hr : r ≠ 0xF) :
    (afterDraw s cv).readV r = s.readV r :=
  State.readV_writeV_of_ne _ _ hr

theorem collisionFlag_eq_one_iff (c : Bool) : collisionFlag c = 1 ↔ c = true := by
  cases c <;> decide

/-- VF is 1 exactly when a covered pixel was lit. -/
theorem afterDraw_flag_eq_one_iff {s : State} {cv : Canvas} {covered : Fin 64 → Fin 32 → Prop}
    (h : Drawn (Canvas.mk s.disp false) cv covered) :
    (afterDraw s cv).readV 0xF = 1 ↔ ∃ px py, covered px py ∧ s.disp.pixel px py = true := by
  rw [afterDraw_flag, collisionFlag_eq_one_iff, h.collision]
  simp

/-- Settles O27: the check of the block decides whether the sprite is drawn, and a drawing inverts what it covers. -/
theorem drawInvertsTheCoveredPixels : Obligations.DrawInvertsTheCoveredPixels := by
  intro x y n s
  refine ⟨decodeWord_encode (.drw x y n) rfl, fun hin => ?_, fun hn hout => ?_⟩
  · obtain ⟨cv, hcv, he, _⟩ | ⟨_, _, _⟩ := execDrw_cases x y n s
    · have hdrawn : Drawn (Canvas.mk s.disp false) cv (covers s x y n) := hcv ▸ drawn_covers s x y n
      have hflag : (afterDraw s cv).readV 0xF = 1 ∨ (afterDraw s cv).readV 0xF = 0 := by
        rw [afterDraw_flag]
        cases cv.collision <;> decide
      exact ⟨afterDraw s cv, he, hdrawn.inverted, hdrawn.unchanged, hflag, afterDraw_flag_eq_one_iff hdrawn,
        fun _ hr => afterDraw_readV_of_ne s cv hr, rfl, sameExcept_of_exec (.drw x y n) he (by simp [writes])⟩
    · omega
  · obtain ⟨_, _, _, hin⟩ | ⟨_, _, he⟩ := execDrw_cases x y n s
    · omega
    · rw [Nat.add_sub_assoc hn]
      exact he

/-! ### The same sprite twice -/

/-- What a sprite covers is read from two registers, memory and I. -/
theorem covers_congr {s t : State} {x y : Reg} (hx : t.readV x = s.readV x) (hy : t.readV y = s.readV y)
    (hmem : t.mem = s.mem) (hi : t.i = s.i) (n : Nibble) : covers t x y n = covers s x y n := by
  unfold covers State.dataAddr
  rw [hx, hy, hmem, hi]

/-- The first draw changes nothing that the second sprite is read from, when VF is not a coordinate. -/
theorem covers_afterDraw {s : State} {x y : Reg} (hx : x ≠ 0xF) (hy : y ≠ 0xF) (n : Nibble) (cv : Canvas) :
    covers (afterDraw s cv) x y n = covers s x y n :=
  covers_congr (afterDraw_readV_of_ne s cv hx) (afterDraw_readV_of_ne s cv hy) rfl rfl n

/-- Settles O28: a pixel that is inverted twice is as before, and one that was unlit is the one the second draw finds lit. -/
theorem drawingTwiceRestores : Obligations.DrawingTwiceRestores := by
  intro x y n s t u hx hy hst htu
  obtain ⟨cv, hfirst, rfl⟩ := drawn_of_exec_drw hst
  obtain ⟨cw, hsecond, rfl⟩ := drawn_of_exec_drw htu
  rw [covers_afterDraw hx hy] at hsecond
  have hlit {px py} (hc : covers s x y n px py) : (afterDraw s cv).disp.pixel px py = !s.disp.pixel px py :=
    hfirst.inverted px py hc
  constructor
  · refine Display.ext_pixel _ _ fun px py => ?_
    by_cases hc : covers s x y n px py
    · exact (hsecond.inverted px py hc).trans (by rw [hlit hc, Bool.not_not])
    · exact (hsecond.unchanged px py hc).trans (hfirst.unchanged px py hc)
  · rw [afterDraw_flag_eq_one_iff hsecond]
    constructor
    · rintro ⟨px, py, hc, hl⟩
      refine ⟨px, py, hc, ?_, hl⟩
      rwa [hlit hc, Bool.not_eq_true'] at hl
    · rintro ⟨px, py, hc, _, hl⟩
      exact ⟨px, py, hc, hl⟩

/-- A machine with every pixel lit and a sprite of one set bit at I. -/
def litScreen : State :=
  { State.reset with mem := [(0, 0x80)], disp := Vector.replicate 32 (Vector.replicate 64 true) }

/-- Refutes O29: with every pixel lit the first draw turns the one pixel of the sprite off, and the second finds it unlit
and leaves VF at 0. -/
theorem not_secondDrawFlagTellsSetBits : ¬Obligations.SecondDrawFlagTellsSetBits := by
  intro h
  have hflag := h 0x0 0x0 0x1 litScreen _ _ (by decide) (by decide) rfl rfl
  have hset : ∃ r < (0x1 : Nibble).toNat, litScreen.mem.read (litScreen.dataAddr r) ≠ 0 := ⟨0, by decide, by decide⟩
  exact absurd (hflag.2 hset) (by decide)

end Sys2Proof.Proofs
end

section
/-!
The call stack (R28 to R30): words pushed one after another are popped in reverse.
-/

namespace Sys2Proof.Proofs

open Sys2Proof Sys2Proof.Machine Sys2Proof.Claims

/-- Popping one word more pops it last. -/
theorem popAll_succ_last (s : State) (n : Nat) :
    popAll s (n + 1) = (popAll s n).bind fun p => p.2.pop.map fun q => (p.1 ++ [q.1], q.2) := by
  induction n generalizing s with
  | zero =>
    simp only [popAll, Option.bind_some]
    cases s.pop <;> rfl
  | succ n ih =>
    rw [popAll, popAll]
    cases s.pop with
    | none => rfl
    | some p =>
      simp only [Option.bind_some, ih]
      cases popAll p.2 n with
      | none => rfl
      | some q => cases hpop : q.2.pop <;> simp [hpop]

/-- As many words as there is room for are pushed, and come back in reverse: the first one pushed is popped last. -/
theorem pushAll_popAll (ws : List Word) (s : State) (h : s.sp.val + ws.length ≤ 16) :
    ∃ t u, pushAll s ws = some t ∧ t.sp.val = s.sp.val + ws.length ∧ popAll t ws.length = some (ws.reverse, u) ∧
      u.sp = s.sp ∧ ∀ k : Fin 16, k.val < s.sp.val → u.stack[k] = s.stack[k] := by
  induction ws generalizing s with
  | nil => exact ⟨s, s, rfl, rfl, rfl, rfl, fun _ _ => rfl⟩
  | cons w ws ih =>
    rw [List.length_cons] at h
    have hlt : s.sp.val < 16 := by omega
    have hpush := s.push_of_lt w hlt
    obtain ⟨t, u, ht, hsp, hpopAll, husp, hustack⟩ :=
      ih (s.setStack ⟨s.sp.val + 1, by omega⟩ (s.stack.set s.sp.val w hlt)) (show s.sp.val + 1 + _ ≤ 16 by omega)
    have husp : u.sp.val = s.sp.val + 1 := congrArg Fin.val husp
    have htop : u.stack[s.sp.val] = w := by simpa using hustack ⟨s.sp.val, hlt⟩ (Nat.lt_succ_self _)
    have hpop := u.pop_of_pos (by omega)
    simp only [husp, Nat.add_sub_cancel, htop] at hpop
    refine ⟨t, u.setStack s.sp u.stack, ?_, ?_, ?_, rfl, fun k hk => ?_⟩
    · rw [pushAll, hpush]
      exact ht
    · exact hsp.trans (show s.sp.val + 1 + ws.length = s.sp.val + (ws.length + 1) by omega)
    · rw [List.length_cons, popAll_succ_last, hpopAll, Option.bind_some, hpop, List.reverse_cons]
      rfl
    · simpa [Vector.getElem_set, Nat.ne_of_gt hk] using hustack k (Nat.lt_succ_of_lt hk)

/-- More words than there is room for are not all pushed (R29). -/
theorem pushAll_eq_none (ws : List Word) (s : State) (h : 16 < s.sp.val + ws.length) : pushAll s ws = none := by
  induction ws generalizing s with
  | nil =>
    have := s.sp.isLt
    simp only [List.length_nil] at h
    omega
  | cons w ws ih =>
    rw [List.length_cons] at h
    rw [pushAll]
    by_cases hlt : s.sp.val < 16
    · rw [s.push_of_lt w hlt]
      exact ih _ (show 16 < s.sp.val + 1 + ws.length by omega)
    · have := s.sp.isLt
      rw [(s.push_eq_none w).2 (by omega)]
      rfl

/-- Settles O39, by induction on the words pushed. -/
theorem stackIsLastInFirstOut : Obligations.StackIsLastInFirstOut :=
  fun s ws => ⟨pushAll_popAll ws s, pushAll_eq_none ws s, s.pop_eq_none.2⟩

end Sys2Proof.Proofs
end

section
/-!
The host's moves (R212 to R214, R220): ticks, key changes, and the entries of the schedule.
-/

namespace Sys2Proof.Proofs

open Sys2Proof Sys2Proof.Machine Sys2Proof.Claims

theorem sameExcept_dt_st_timerTick (s : State) : s.sameExcept [.dt, .st] s.timerTick := by
  intro f hf
  cases f with
  | dt | st => simp at hf
  | _ => simp [Field.same]

theorem sameExcept_keys_setKey (s : State) (k : BitVec 4) (p : Bool) : s.sameExcept [.keys] (s.setKey k p) := by
  intro f hf
  cases f with
  | keys => simp at hf
  | _ => simp [Field.same]

theorem sameExcept_deliver (s : State) : s.sameExcept [.dt, .st, .keys, .inputs] s.deliver := by
  intro f hf
  cases f with
  | dt | st | keys | inputs => simp at hf
  | v => exact s.deliver_readV
  | _ => simp [Field.same]

/-- Settles O46, by induction on the number of ticks. -/
theorem ticksCountDownToZero : Obligations.TicksCountDownToZero := by
  intro n
  induction n with
  | zero => exact fun s => ⟨rfl, rfl, sameExcept_mono (sameExcept_refl s) (List.nil_subset _)⟩
  | succ n ih =>
    intro s
    obtain ⟨hdt, hst, hframe⟩ := ih s.timerTick
    refine ⟨?_, ?_, sameExcept_mono (sameExcept_append (sameExcept_dt_st_timerTick s) hframe) (by simp)⟩
    · rw [ticks, hdt, State.timerTick_dt, countDown_toNat, Nat.sub_sub, Nat.add_comm 1 n]
    · rw [ticks, hst, State.timerTick_st, countDown_toNat, Nat.sub_sub, Nat.add_comm 1 n]

theorem applyEvents_replicate_timerTick (n : Nat) (s : State) :
    s.applyEvents (List.replicate n .timerTick) = ticks s n := by
  induction n generalizing s with
  | zero => rfl
  | succ n ih => exact ih s.timerTick

/-- The last move of an entry lands on what the moves before it leave. -/
theorem deliver_of_append_last {s : State} {es : List ExternalEvent} {e : ExternalEvent}
    {rest : List (List ExternalEvent)} (h : s.inputs = (es ++ [e]) :: rest) :
    s.deliver = ({ s with inputs := es :: rest } : State).deliver.applyEvent e := by
  rw [State.deliver_of_cons s h, State.applyEvents_append,
    State.deliver_of_cons ({ s with inputs := es :: rest } : State) rfl]
  rfl

/-- Settles O47: the entry of the schedule is applied move by move, and each kind of move has its frame. -/
theorem hostMovesTouchOnlyTimersAndKeys : Obligations.HostMovesTouchOnlyTimersAndKeys := by
  intro s
  refine ⟨sameExcept_deliver s, s.deliver_of_nil, fun rest h => s.deliver_of_cons h, fun es rest h => ?_,
    fun es rest k p h => ?_, fun n rest h => ?_⟩
  · rw [deliver_of_append_last h]
    exact ⟨countDown_toNat _, countDown_toNat _, sameExcept_dt_st_timerTick _⟩
  · rw [deliver_of_append_last h]
    refine ⟨?_, fun j hj => ?_, sameExcept_keys_setKey _ k p⟩
    · simp [State.applyEvent]
    · simp [State.applyEvent, Ne.symm hj]
  · obtain ⟨hdt, hst, hframe⟩ := ticksCountDownToZero n { s with inputs := rest }
    rw [s.deliver_of_cons h, applyEvents_replicate_timerTick]
    exact ⟨hdt, hst, hframe .keys (by simp)⟩

end Sys2Proof.Proofs
end

section
/-!
Runs that stand still (R184, R221, R243): a state a step leaves as it is stays so for any number of steps.
-/

namespace Sys2Proof.Proofs

open Sys2Proof Sys2Proof.Machine Sys2Proof.Claims

theorem run_of_step_eq_self {s : State} (h : step s = .next s) (n : Nat) :
    Host.Core.run Sys2Proof.core n s = .next s := by
  induction n with
  | zero => rfl
  | succ n ih => exact (run_succ_of_next n h).trans ih

/-- Settles O58: the key wait with no key pressed is such a step. -/
theorem keyWaitSpins : Obligations.KeyWaitSpins := by
  intro n s w x hl hin hf hd hkeys
  refine run_of_step_eq_self ?_ n
  rw [step_of_decode hl hf hd, s.deliver_of_nil hin]
  exact (keyWait x s).2.2 hkeys

/-- A finished run fetches a jump to the address it stands at (R221). -/
theorem finished_iff (s : State) :
    s.finished = true ↔ ∃ w nnn, s.fetch = some w ∧ decodeWord w = .ok (.jp nnn) ∧ zextAddr nnn = s.pc := by
  unfold State.finished
  constructor
  · intro h
    split at h
    · cases h
    · next w hf =>
      split at h
      · next nnn hd => exact ⟨w, nnn, hf, hd, beq_iff_eq.1 h⟩
      · cases h
  · rintro ⟨w, nnn, hf, hd, hpc⟩
    simp [hf, hd, hpc]

/-- Settles O59: a jump to the address it stands at is such a step. -/
theorem finishedRunStaysFinished : Obligations.FinishedRunStaysFinished := by
  intro n s hl hin hfin
  obtain ⟨w, nnn, hf, hd, hpc⟩ := (finished_iff s).1 hfin
  have hstep : step s = .next s := by
    rw [step_of_decode hl hf hd, s.deliver_of_nil hin, exec, execJp, hpc, State.jumpTo]
  exact ⟨run_of_step_eq_self hstep n, s, run_of_step_eq_self hstep n⟩

end Sys2Proof.Proofs
end
